-- ==== Sys2Proof/Word.lean ====
section
/-! DEFINITION. The word types of KECCAK-CORE: bytes, 64-bit lanes, the 25-lane state, 16-bit command words
(00_scope.md R6, R7, R9). Nothing here is signed and no arithmetic is needed on these types but XOR, AND, NOT and
rotation (R8, R130). -/

namespace Sys2Proof

/-- A message, pad or digest byte (R9, R65). -/
abbrev Byte := BitVec 8

/-- One lane: an unsigned 64-bit number, bit 0 the least significant (R6, R9). -/
abbrev Lane := BitVec 64

/-- The 25 lanes `A[0]` to `A[24]` in linear-index order `x + 5*y` (R21, R22). -/
abbrev Lanes := Vector Lane 25

/-- A command word as `cmd_word[15:0]` carries it (R61, R62). -/
abbrev CmdWord := BitVec 16

end Sys2Proof
end

