-- ==== Sys2Proof/Syntax.lean ====
section
/-! DEFINITION. The instructions of KECCAK-CORE: the four commands of spec/opcode_table.json (00_scope.md R3,
42_commands.md R121 to R124). A word that spells none of them is no instruction: Decode rejects it by name. -/

namespace Sys2Proof

/-- The four host commands. The operand of INIT is a number, compared as a whole with the accepted sizes (R64, R121);
the operand of ABSORB is placed bit by bit in a lane, so it is a byte (R65, R101). -/
inductive Instr where
  /-- INIT size (R121): create a session of the given output size in bits. -/
  | init (size : Nat)
  /-- ABSORB byte (R122): update with one message byte. -/
  | absorb (byte : Byte)
  /-- FINISH (R123): pad, permute, return the digest, zero the session. -/
  | finish
  /-- RESET (R124): zero the session, keep its size. -/
  | reset
  deriving DecidableEq, Repr

end Sys2Proof
end

