-- ==== Sys2Proof/WellFormed.lean ====
section
/-! DEFINITION. When an instruction can be spelled as a command word: INIT's size fits the 12 bits of `arg`
(30_encoding.md R64). Every byte is a legal operand of ABSORB (R65); FINISH and RESET have no operand. -/

namespace Sys2Proof

/-- The instruction has a command word. A size of 4096 or more cannot be expressed by the 12-bit field (R64). -/
def Instr.wellFormed : Instr → Bool
  | .init size => decide (size < 4096)
  | .absorb _ => true
  | .finish => true
  | .reset => true

end Sys2Proof
end

