-- ==== Sys2Proof/Decode.lean ====
section
/-! DEFINITION. Decoding and encoding of the 16-bit command word (30_encoding.md R62 to R68). A word reaches the engine
whole, on the sixteen lines of `cmd_word` (R61), so a decoder of one word is total on whatever the engine can be
given: there is no byte stream, no second word and no state or mode bit in decoding (R66, R68). -/

namespace Sys2Proof

/-- Why a word spells no command; every one of them is the spec's ILLEGAL (R66, R67). -/
inductive DecodeError where
  /-- `op` is 0x0 or 0x5 to 0xF (R63). -/
  | reservedOpcode (op : BitVec 4)
  /-- ABSORB with `arg[11:8]` not 0 (R65). -/
  | absorbReservedBits (arg : BitVec 12)
  /-- FINISH with `arg` not 0 (R65). -/
  | finishReservedBits (arg : BitVec 12)
  /-- RESET with `arg` not 0 (R65). -/
  | resetReservedBits (arg : BitVec 12)
  deriving DecidableEq, Repr

/-- `op = word[15:12]` (R62). -/
def opField (w : CmdWord) : BitVec 4 := w.extractLsb' 12 4

/-- `arg = word[11:0]` (R62). -/
def argField (w : CmdWord) : BitVec 12 := w.extractLsb' 0 12

/-- R66, line by line. -/
def decode (w : CmdWord) : Except DecodeError Instr :=
  let op := opField w
  let arg := argField w
  if op = 0x1#4 then .ok (.init arg.toNat)
  else if op = 0x2#4 then
    if arg.extractLsb' 8 4 = 0#4 then .ok (.absorb (arg.extractLsb' 0 8)) else .error (.absorbReservedBits arg)
  else if op = 0x3#4 then
    if arg = 0#12 then .ok .finish else .error (.finishReservedBits arg)
  else if op = 0x4#4 then
    if arg = 0#12 then .ok .reset else .error (.resetReservedBits arg)
  else .error (.reservedOpcode op)

/-- The word of a well-formed instruction (R63 to R65, R70). On an ill-formed one (a size of 4096 or more) it means
nothing: the size does not fit the field. -/
def encode : Instr → CmdWord
  | .init size => 0x1#4 ++ BitVec.ofNat 12 size
  | .absorb byte => 0x2#4 ++ (0x0#4 ++ byte)
  | .finish => 0x3000#16
  | .reset => 0x4000#16

/-- One row of the opcode map: a word is this command's when `(word and mask) = match` (R63). -/
structure OpcodeRow where
  mnemonic : String
  matchBits : CmdWord
  mask : CmdWord
  deriving DecidableEq, Repr

/-- The four rows of R63 with their match and mask. -/
def opcodeRows : List OpcodeRow :=
  [⟨"INIT", 0x1000#16, 0xF000#16⟩, ⟨"ABSORB", 0x2000#16, 0xFF00#16⟩,
   ⟨"FINISH", 0x3000#16, 0xFFFF#16⟩, ⟨"RESET", 0x4000#16, 0xFFFF#16⟩]

/-- The word is one of the row's (R63). -/
def OpcodeRow.accepts (r : OpcodeRow) (w : CmdWord) : Bool := (w &&& r.mask) == r.matchBits

/-- The word spells a command: some row accepts it (R63). -/
def legalWord (w : CmdWord) : Bool := opcodeRows.any (·.accepts w)

/-- The instruction's mnemonic in the opcode table. -/
def Instr.mnemonic : Instr → String
  | .init _ => "INIT"
  | .absorb _ => "ABSORB"
  | .finish => "FINISH"
  | .reset => "RESET"

/-- The command word whose bits the opcode table numbers as `w`, of which the table gives `nbits`: every bit above them is
0. There is one word length, 16 bits (R68). -/
def tableWord (nbits w : Nat) : CmdWord := BitVec.ofNat 16 (w % 2 ^ nbits)

/-- What the decoder reads from the opcode table's word; no command is longer than 16 bits (R68; log 11). -/
def decodeTableWord (nbits w : Nat) : Option Instr :=
  if nbits ≤ 16 then (decode (tableWord nbits w)).toOption else none

/-- `INIT 256`: op 0001, arg 000100000000 (R64). -/
theorem decode_init_word : decode 0b0001000100000000#16 = .ok (.init 256) := by decide

/-- `ABSORB 0x61`: op 0010, reserved 0000, byte 01100001 (R65). -/
theorem decode_absorb_word : decode 0b0010000001100001#16 = .ok (.absorb 0x61#8) := by decide

/-- `FINISH`: op 0011, arg 0 (R65). -/
theorem decode_finish_word : decode 0b0011000000000000#16 = .ok .finish := by decide

/-- `RESET`: op 0100, arg 0 (R65). -/
theorem decode_reset_word : decode 0b0100000000000000#16 = .ok .reset := by decide

end Sys2Proof
end

