-- ==== Sys2Proof/Machine/State.lean ====
section
/-! DEFINITION. The state of KECCAK-CORE, plain data, holding every piece of state 10_state.md, 30_encoding.md R61 and
43_sequencer.md R140 give the machine; its value after hardware reset (R35, R180); why a step can stop. -/

namespace Sys2Proof.Machine

/-- MODE, the configured output size (R27): codes 0, 1, 2, 3 of the 2-bit field in this order (`Mode.code`). -/
inductive Mode where
  | m224 | m256 | m384 | m512
  deriving DecidableEq, Repr

/-- PHASE of the sequencer (R140). -/
inductive Phase where
  /-- No command in the engine. -/
  | idle
  /-- A permutation is running; RND is the next round's index. -/
  | rounds
  /-- The final permutation is done, the digest is about to be read. -/
  | squeeze
  deriving DecidableEq, Repr

/-- AFTER: what follows the permutation that is running (R32, R140). -/
inductive After where
  | toIdle | toSqueeze
  deriving DecidableEq, Repr

/-- The four status codes that occur (60_exceptions.md R160); 4 to 15 are never produced (V4). -/
inductive Status where
  | ok | unsupportedDigestSize | notConfigured | illegalCommand
  deriving DecidableEq, Repr

/-- A response as the response port carries it (R61, R69): `rsp_status`, `rsp_len`, `rsp_data`. -/
structure Response where
  status : Status
  len : BitVec 7
  data : BitVec 512
  deriving DecidableEq, Repr

/-- What the host drives at one step (R61, R180): `rst`; `cmd_valid` with `cmd_word` (none: `cmd_valid` = 0);
`rsp_ready`. -/
structure PortInput where
  rst : Bool
  cmd : Option CmdWord
  rspReady : Bool
  deriving DecidableEq, Repr

/-- The machine. `lanes`, `cursor`, `mode`, `valid` are the architectural state (R14); `phase`, `rnd`, `after` the hidden
registers of the sequencer (R32, R140); `rsp` the response not yet taken (R186); `inputs` what the host drives at the
coming steps, the model's own field (log 2). The 200-byte space and CTL are views of these (R40, R26). -/
structure State where
  /-- `A[0]` to `A[24]` (R21). -/
  lanes : Lanes
  /-- CURSOR, CTL[7:0] (R26, R28). -/
  cursor : BitVec 8
  /-- MODE, CTL[9:8] (R26, R27). -/
  mode : Mode
  /-- VALID, CTL[10] (R25, R26). -/
  valid : Bool
  /-- PHASE (R140). -/
  phase : Phase
  /-- RND, a 5-bit register whose values are 0 to 23 (R32; log 7). -/
  rnd : Fin 24
  /-- AFTER (R140). -/
  after : After
  /-- The pending response: `none` is `rsp_valid` = 0 (R61, R180). -/
  rsp : Option Response
  /-- What the host drives at the coming steps, the next one first (log 2). -/
  inputs : List PortInput
  deriving DecidableEq, Repr

/-- Why the machine stops. The spec's three errors are not here: each is a response (R160, R167). -/
inductive Fault where
  /-- Raised by ABSORB and FINISH, and by their ACCEPT micro-steps, when VALID = 1 and CURSOR is not below RATE(MODE): the
  precondition of R101 and R106 fails and the spec gives no effect. Safe; no run from reset gets there (R34; log 5). -/
  | cursorOutsideWindow
  deriving DecidableEq, Repr

/-- Why an instruction has no meaning. -/
inductive Refusal where
  /-- Raised by `exec` alone, for an instruction not yet modelled (there is none). Safe. -/
  | notModelled (mnemonic : String)
  deriving DecidableEq, Repr

/-- The state while `rst` is 1 and after it (R35, R180), with a host that drives nothing (log 3). -/
def State.reset : State where
  lanes := Vector.replicate 25 0#64
  cursor := 0#8
  mode := .m224
  valid := false
  phase := .idle
  rnd := 0
  after := .toIdle
  rsp := none
  inputs := []

end Sys2Proof.Machine
end

