-- ==== Sys2Proof/Machine/Operands.lean ====
section
/-! DEFINITION. The operands of the commands and the quantities derived from MODE: INIT's size (30_encoding.md R64), the
placement of ABSORB's byte in its lane (R65, R101), OB, RATE and the code of MODE (00_scope.md R6, 10_state.md R27). -/

namespace Sys2Proof.Machine

/-- The output size in bits that MODE selects (R27). -/
def Mode.size : Mode → Nat
  | .m224 => 224
  | .m256 => 256
  | .m384 => 384
  | .m512 => 512

/-- The 2-bit code of MODE in CTL[9:8] (R26, R27). -/
def Mode.code : Mode → BitVec 2
  | .m224 => 0#2
  | .m256 => 1#2
  | .m384 => 2#2
  | .m512 => 3#2

/-- OB(MODE), the digest's length in bytes (R6, R27). -/
def Mode.ob (m : Mode) : Nat := m.size / 8

/-- RATE(MODE) = 200 - 2 * OB(MODE), in bytes (R6, R27). -/
def Mode.rate (m : Mode) : Nat := 200 - 2 * m.ob

/-- The MODE of an accepted size, and `none` for every other number: sizes are compared as whole numbers (R64, R121). -/
def Mode.ofSize (size : Nat) : Option Mode :=
  if size = 224 then some .m224
  else if size = 256 then some .m256
  else if size = 384 then some .m384
  else if size = 512 then some .m512
  else none

/-- `zext_64(b) * 2^(8*k)`: byte `b` at byte position `k` (0 to 7) of a lane (R9, R101). -/
def placeByte (b : Byte) (k : Nat) : Lane := b.setWidth 64 <<< (8 * k)

/-- Byte `k` (0 to 7) of a lane, `v[8k+7 : 8k]` (R9). -/
def laneByte (v : Lane) (k : Nat) : Byte := v.extractLsb' (8 * k) 8

end Sys2Proof.Machine
end

