-- ==== Sys2Proof/Machine/Flags.lean ====
section
/-! DEFINITION. The one flag, VALID (10_state.md R25), and the view of the control fields as the register CTL (R26). There
are no condition codes: no command sets a flag as a side effect of arithmetic (R25). -/

namespace Sys2Proof.Machine

/-- VALID as a bit (R25). -/
def State.validBit (s : State) : BitVec 1 := BitVec.ofBool s.valid

/-- A successful INIT sets VALID and MODE (R25, R121). -/
def State.configure (s : State) (m : Mode) : State := { s with mode := m, valid := true }

/-- A rejected INIT clears VALID, with MODE 0 (R25, R27, R121). -/
def State.unconfigure (s : State) : State := { s with mode := .m224, valid := false }

/-- CTL: CURSOR in bits [7:0], MODE in [9:8], VALID in [10] (R26). No command reads it. -/
def State.ctl (s : State) : BitVec 11 := s.validBit ++ (s.mode.code ++ s.cursor)

end Sys2Proof.Machine
end

