-- ==== Sys2Proof/Machine/Ops.lean ====
section
/-! DEFINITION. The shared operations over the state: lanes and the byte space (20_memory.md), zeroing, responses
(30_encoding.md R69), raising an error (60_exceptions.md R167), the hardware reset (70_reset_and_hazards.md R180). -/

namespace Sys2Proof.Machine

/-! ### Lanes and bytes -/

/-- `A[i]` (R11). There are lanes 0 to 24 only; no rule forms another index. -/
def laneAt (S : Lanes) (i : Nat) : Lane := S.toList.getD i 0#64

/-- The byte at offset `b` of the state byte space: byte `b mod 8` of lane `b div 8` (R40). There are offsets 0 to 199
only; no rule forms another (R43; log 8). -/
def byteAt (S : Lanes) (b : Nat) : Byte := laneByte (laneAt S (b / 8)) (b % 8)

/-- `MemRead(b, n)`, for b + n <= 200 (R12). -/
def memRead (S : Lanes) (b n : Nat) : List Byte := (List.range n).map fun i => byteAt S (b + i)

/-- The lane `v` with its byte `k` replaced by `x`. -/
def setLaneByte (v : Lane) (k : Nat) (x : Byte) : Lane := v &&& ~~~ placeByte 0xFF#8 k ||| placeByte x k

/-- Replace the byte at offset `b` < 200 (R12, R40). -/
def setByteAt (S : Lanes) (b : Nat) (x : Byte) : Lanes :=
  S.setIfInBounds (b / 8) (setLaneByte (laneAt S (b / 8)) (b % 8) x)

/-- `MemWrite(b, n, s)` with n the length of `s`, for b + n <= 200 (R12). -/
def memWrite (S : Lanes) (b : Nat) : List Byte → Lanes
  | [] => S
  | x :: xs => memWrite (setByteAt S b x) (b + 1) xs

/-- `MemXor(b, v)` in the lane form of R101: `A[b div 8] <- A[b div 8] xor (zext_64(v) * 2^(8*(b mod 8)))`. -/
def memXor (S : Lanes) (b : Nat) (v : Byte) : Lanes :=
  S.setIfInBounds (b / 8) (laneAt S (b / 8) ^^^ placeByte v (b % 8))

/-- All 25 lanes zero. -/
def zeroLanes : Lanes := Vector.replicate 25 0#64

/-- `A <- all zero; CURSOR <- 0`: what INIT, RESET and the tail of FINISH do (R121, R123, R124, R181). -/
def State.zeroSession (s : State) : State := { s with lanes := zeroLanes, cursor := 0#8 }

/-! ### The byte space as a list of cells -/

/-- The state byte space as (offset, byte) cells, offsets rising, bytes that are 0 left out: the reset contents are 0
everywhere, and that is what an unlisted offset reads as (R35, R40; log 8). -/
def memCells (S : Lanes) : List Host.Cell :=
  (List.range 200).filterMap fun b => if byteAt S b = 0#8 then none else some (b, byteAt S b)

/-- What a list of cells reads at an offset: an unlisted one reads as 0. -/
def cellAt (cells : List Host.Cell) (b : Nat) : Byte := (cells.lookup b).getD 0#8

/-- The canonical form of a list of cells: offsets strictly rising, all in the space, none listed with the byte an
unlisted offset reads as. -/
def Memory.wf (cells : List Host.Cell) : Bool :=
  decide (cells.Pairwise fun c d => c.1 < d.1) && cells.all fun c => decide (c.1 < 200) && c.2 != 0#8

/-! ### Responses -/

/-- The code in `rsp_status[3:0]` (R160). -/
def Status.code : Status → BitVec 4
  | .ok => 0#4
  | .unsupportedDigestSize => 1#4
  | .notConfigured => 2#4
  | .illegalCommand => 3#4

/-- The bytes with byte i in bits `[8*i+7 : 8*i]`, every bit above them 0 (R69). -/
def packBytes : List Byte → BitVec 512
  | [] => 0#512
  | x :: xs => x.setWidth 512 ||| packBytes xs <<< 8

/-- The response port's form of the pair (status, payload), for a payload of at most 64 bytes (R14, R69). -/
def Response.ofPair (status : Status) (payload : List Byte) : Response :=
  ⟨status, BitVec.ofNat 7 payload.length, packBytes payload⟩

/-- The payload of a response: the `rsp_len` bytes of `rsp_data` in index order (R69). -/
def Response.payload (r : Response) : List Byte :=
  (List.range r.len.toNat).map fun i => r.data.extractLsb' (8 * i) 8

/-- `respond(status, bytes)`: the response waits on the port until taken (R13, R186). -/
def respond (status : Status) (payload : List Byte) (s : State) : State :=
  { s with rsp := some (.ofPair status payload) }

/-- The three errors (R13, R160). -/
inductive Error where
  | unsupportedDigestSize | notConfigured | illegalCommand
  deriving DecidableEq, Repr

/-- An error's status code name (R160). -/
def Error.status : Error → Status
  | .unsupportedDigestSize => .unsupportedDigestSize
  | .notConfigured => .notConfigured
  | .illegalCommand => .illegalCommand

/-- `raise e`, this hardware's exception entry: it saves nothing, switches no mode, masks nothing and transfers control
nowhere; it writes the response (code, empty payload) and the engine is idle again (R13, R167). There is no return from
an error, nothing to return from (R168). -/
def raiseError (e : Error) (s : State) : State := respond e.status [] s

/-! ### Hardware reset -/

/-- `rst`: whatever the engine was doing, its state becomes the reset state; a command in the engine is abandoned and a
pending response dropped (R180, R182). What the host will drive next is the host's (log 3). -/
def hardwareReset (s : State) : State := { State.reset with inputs := s.inputs }

end Sys2Proof.Machine
end

