-- ==== Sys2Proof/Machine/Permutation.lean ====
section
/-! DEFINITION. The Permutation Engine (40_permutation.md): the tables RHO and RC (R87, R88), the five steps (R82 to R86), a
round and the 24-round permutation (R90). Every step is a function from the 25 lanes to 25 new lanes and reads its
argument only, so no step sees a lane it has already updated (R81). -/

namespace Sys2Proof.Machine

/-- `A[x, y]`, the lane at column `x mod 5`, row `y` (R11, R21); the rules take column numbers modulo 5 (R10). -/
def laneXY (S : Lanes) (x y : Nat) : Lane := laneAt S (x % 5 + 5 * y)

/-- The 25 lanes whose lane at (x, y) is `f x y`, in linear-index order x + 5*y (R22). -/
def lanesOf (f : Nat → Nat → Lane) : Lanes :=
  #v[f 0 0, f 1 0, f 2 0, f 3 0, f 4 0,
     f 0 1, f 1 1, f 2 1, f 3 1, f 4 1,
     f 0 2, f 1 2, f 2 2, f 3 2, f 4 2,
     f 0 3, f 1 3, f 2 3, f 3 3, f 4 3,
     f 0 4, f 1 4, f 2 4, f 3 4, f 4 4]

/-- `rotl(v, n)`: circular left rotation by 0 <= n <= 63 (R10). -/
def rotl (v : Lane) (n : Nat) : Lane := v.rotateLeft n

/-- The rotation offsets by linear lane index x + 5*y (R87; the orientation is 90_conflicts.md C5). -/
def rhoTable : List Nat :=
  [0, 1, 62, 28, 27,
   36, 44, 6, 55, 20,
   3, 10, 43, 25, 39,
   41, 45, 15, 21, 8,
   18, 2, 61, 56, 14]

/-- `RHO[x, y]` (R87). -/
def rhoOffset (x y : Nat) : Nat := rhoTable.getD (x + 5 * y) 0

/-- The 24 round constants (R88). -/
def rcTable : List Lane :=
  [0x0000000000000001#64, 0x0000000000008082#64, 0x800000000000808A#64, 0x8000000080008000#64,
   0x000000000000808B#64, 0x0000000080000001#64, 0x8000000080008081#64, 0x8000000000008009#64,
   0x000000000000008A#64, 0x0000000000000088#64, 0x0000000080008009#64, 0x000000008000000A#64,
   0x000000008000808B#64, 0x800000000000008B#64, 0x8000000000008089#64, 0x8000000000008003#64,
   0x8000000000008002#64, 0x8000000000000080#64, 0x000000000000800A#64, 0x800000008000000A#64,
   0x8000000080008081#64, 0x8000000000008080#64, 0x0000000080000001#64, 0x8000000080008008#64]

/-- `RC[i]` (R88). -/
def rc (i : Fin 24) : Lane := rcTable.getD i.val 0#64

/-- `C[x]`, the parity of column x (R82). -/
def thetaC (S : Lanes) (x : Nat) : Lane :=
  laneXY S x 0 ^^^ laneXY S x 1 ^^^ laneXY S x 2 ^^^ laneXY S x 3 ^^^ laneXY S x 4

/-- `D[x] = C[(x-1) mod 5] xor rotl(C[(x+1) mod 5], 1)` (R82); x - 1 is x + 4 modulo 5. -/
def thetaD (S : Lanes) (x : Nat) : Lane := thetaC S ((x + 4) % 5) ^^^ rotl (thetaC S ((x + 1) % 5)) 1

/-- Theta (R82). -/
def theta (S : Lanes) : Lanes := lanesOf fun x y => laneXY S x y ^^^ thetaD S x

/-- Rho (R83). -/
def rho (S : Lanes) : Lanes := lanesOf fun x y => rotl (laneXY S x y) (rhoOffset x y)

/-- Pi (R84), in the form the rule derives: `T[X, Y] = S[(X + 3*Y) mod 5, X]`. -/
def pi (S : Lanes) : Lanes := lanesOf fun x y => laneXY S (x + 3 * y) x

/-- Chi (R85). -/
def chi (S : Lanes) : Lanes :=
  lanesOf fun x y => laneXY S x y ^^^ (~~~ laneXY S (x + 1) y &&& laneXY S (x + 2) y)

/-- Iota (R86): `A[0, 0]` is XORed with RC[i], the other lanes are unchanged. -/
def iota (S : Lanes) (i : Fin 24) : Lanes := S.set 0 (laneXY S 0 0 ^^^ rc i)

/-- `Round(S, i)` (R90). -/
def keccakRound (S : Lanes) (i : Fin 24) : Lanes := iota (chi (pi (rho (theta S)))) i

/-- `Permute(S)`: the rounds 0 to 23 in ascending order (R90). -/
def permute (S : Lanes) : Lanes := (List.finRange 24).foldl keccakRound S

/-! ### Steps merged, as R93 allows -/

/-- Pi's source of destination lane j, by linear index (R84). -/
def piSource : List Nat :=
  [0, 6, 12, 18, 24, 3, 9, 10, 16, 22, 1, 7, 13, 19, 20, 4, 5, 11, 17, 23, 2, 8, 14, 15, 21]

/-- Pi's destination of source lane i, by linear index (R84). -/
def piDest : List Nat :=
  [0, 10, 20, 5, 15, 16, 1, 11, 21, 6, 7, 17, 2, 12, 22, 23, 8, 18, 3, 13, 14, 24, 9, 19, 4]

/-- Rho and Pi merged into one lane move along the index list of R84, the merge R93 names as allowed. -/
def rhoPiMerged (S : Lanes) : Lanes :=
  Vector.ofFn fun j : Fin 25 =>
    rotl (laneAt S (piSource.getD j.val 0)) (rhoTable.getD (piSource.getD j.val 0) 0)

/-- A round with the merged move. -/
def roundMerged (S : Lanes) (i : Fin 24) : Lanes := iota (chi (rhoPiMerged (theta S))) i

end Sys2Proof.Machine
end

