-- ==== Sys2Proof/Machine/Sponge.lean ====
section
/-! DEFINITION. The Sponge State Machine (41_sponge.md): absorbing bytes with the rate boundary (R101 to R103), the pad
(R106), the squeeze (R109), and the hash as one function, in both forms of R111. -/

namespace Sys2Proof.Machine

/-- RATE(MODE) of the configured mode (R27). -/
def State.rate (s : State) : Nat := s.mode.rate

/-- The precondition of AbsorbByte and PadBlock on CURSOR: `0 <= CURSOR < RATE` (R101, R106). -/
def State.cursorInWindow (s : State) : Bool := decide (s.cursor.toNat < s.rate)

/-- The next absorbed byte fills the window: CURSOR + 1 = RATE (R101, R102). -/
def State.fillsWindow (s : State) : Bool := decide (s.cursor.toNat + 1 = s.rate)

/-- AbsorbByte(b) (R101), with the rate boundary inside the same operation (R102; 90_conflicts.md C6). -/
def absorbByte (s : State) (b : Byte) : State :=
  let lanes := memXor s.lanes s.cursor.toNat b
  let cursor := s.cursor + 1#8
  if cursor.toNat = s.rate then { s with lanes := permute lanes, cursor := 0#8 }
  else { s with lanes := lanes, cursor := cursor }

/-- AbsorbBytes(s): AbsorbByte of each byte in sequence order (R103). -/
def absorbBytes (s : State) (bytes : List Byte) : State := bytes.foldl absorbByte s

/-- How many times Permute runs in AbsorbBytes (R103): once for each byte that fills the window (R102). -/
def permCount (s : State) : List Byte → Nat
  | [] => 0
  | b :: bs => (if s.fillsWindow then 1 else 0) + permCount (absorbByte s b) bs

/-- PadBlock(cursor, rate), for cursor < rate (R106): padLen = rate - cursor zero bytes, then both pad values XORed in, so
that with padLen = 1 they meet in one byte and give 0x86. -/
def padBlock (cursor rate : Nat) : List Byte :=
  let padLen := rate - cursor
  ((List.replicate padLen 0x00#8).modify 0 (· ^^^ 0x06#8)).modify (padLen - 1) (· ^^^ 0x80#8)

/-- `AbsorbBytes(PadBlock(CURSOR, RATE))` (R107, R123). -/
def absorbPad (s : State) : State := absorbBytes s (padBlock s.cursor.toNat s.rate)

/-- Squeeze(): `MemRead(0, OB)` (R109). -/
def squeeze (s : State) : List Byte := memRead s.lanes 0 s.mode.ob

/-! ### The hash as one function -/

/-- A session of the given mode with nothing absorbed: `A <- all zero; CURSOR <- 0` (R111), VALID = 1. -/
def freshSession (m : Mode) : State := { State.reset with mode := m, valid := true }

/-- Hash(MODE, M) (R111). -/
def hashOf (m : Mode) (msg : List Byte) : List Byte := squeeze (absorbPad (absorbBytes (freshSession m) msg))

/-- XOR a sequence of bytes into the offsets b, b+1, ... -/
def xorBytes (S : Lanes) (b : Nat) : List Byte → Lanes
  | [] => S
  | x :: xs => xorBytes (memXor S b x) (b + 1) xs

/-- XOR a block into offsets 0 to RATE - 1 and apply Permute (R111). -/
def absorbWindow (S : Lanes) (block : List Byte) : Lanes := permute (xorBytes S 0 block)

/-- Cut a byte sequence into its first `n` blocks of `rate` bytes (R111). -/
def blocks (rate : Nat) : Nat → List Byte → List (List Byte)
  | 0, _ => []
  | n + 1, bytes => bytes.take rate :: blocks rate n (bytes.drop rate)

/-- The message with its pad: `M ++ PadBlock(length(M) mod RATE, RATE)` (R111). -/
def paddedMessage (m : Mode) (msg : List Byte) : List Byte := msg ++ padBlock (msg.length % m.rate) m.rate

/-- The equivalent block form of the hash that R111 states. -/
def hashByBlocks (m : Mode) (msg : List Byte) : List Byte :=
  let p := paddedMessage m msg
  memRead ((blocks m.rate (p.length / m.rate) p).foldl absorbWindow zeroLanes) 0 m.ob

end Sys2Proof.Machine
end

