-- ==== Sys2Proof/Machine/Session.lean ====
section
/-! DEFINITION. The Streaming Session: the meaning of the four commands at the command level, which is normative
(42_commands.md R120 to R124, 43_sequencer.md R147). Each command is atomic: its next state is the one after its
response was produced (20_memory.md R45). -/

namespace Sys2Proof.Machine

/-- Check (2) of R120: with VALID = 0 the command raises NotConfigured and changes nothing else (R162). -/
def whenConfigured (s : State) (run : State → Host.Outcome State Fault Refusal) : Host.Outcome State Fault Refusal :=
  if s.valid then run s else .next (raiseError .notConfigured s)

/-- The precondition of AbsorbByte and PadBlock (R101, R106; log 5). -/
def whenCursorInWindow (s : State) (run : State → State) : Host.Outcome State Fault Refusal :=
  if s.cursorInWindow then .next (run s) else .fault .cursorOutsideWindow

/-- INIT size (R121). -/
def execInit (size : Nat) (s : State) : Host.Outcome State Fault Refusal :=
  match Mode.ofSize size with
  | some m => .next (respond .ok [] (s.zeroSession.configure m))
  | none => .next (raiseError .unsupportedDigestSize s.zeroSession.unconfigure)

/-- `t`, the state after absorbing a byte in `s`, with AFTER as R143 leaves it: TO_IDLE where the byte filled the window and
the permutation ran, untouched otherwise (log 13). -/
def State.noteAbsorb (s t : State) : State :=
  if s.fillsWindow then { t with after := .toIdle } else t

/-- ABSORB byte (R122). -/
def execAbsorb (byte : Byte) (s : State) : Host.Outcome State Fault Refusal :=
  whenConfigured s fun s => whenCursorInWindow s fun s => respond .ok [] (s.noteAbsorb (absorbByte s byte))

/-- FINISH (R123): pad and permute, read the digest, then zero; AFTER is left at TO_SQUEEZE (R35; log 13). -/
def execFinish (s : State) : Host.Outcome State Fault Refusal :=
  whenConfigured s fun s => whenCursorInWindow s fun s =>
    let padded := absorbPad s
    let digest := squeeze padded
    respond .ok digest { padded.zeroSession with after := .toSqueeze }

/-- RESET (R124). -/
def execReset (s : State) : Host.Outcome State Fault Refusal :=
  whenConfigured s fun s => .next (respond .ok [] s.zeroSession)

end Sys2Proof.Machine
end

