-- ==== Sys2Proof/Machine/Sequencer.lean ====
section
/-! DEFINITION. The micro-step sequencer (43_sequencer.md): ACCEPT (R142 to R144), ROUND (R145), SQUEEZE (R146), and the
micro-step counts (R148). It refines the command level, which is normative (R147). -/

namespace Sys2Proof.Machine

/-- ACCEPT of ABSORB with VALID = 1 (R143): the window's last byte starts the rounds, with CURSOR left at RATE. -/
def acceptAbsorb (byte : Byte) (s : State) : State :=
  let lanes := memXor s.lanes s.cursor.toNat byte
  let cursor := s.cursor + 1#8
  if cursor.toNat = s.rate then
    { s with lanes := lanes, cursor := cursor, phase := .rounds, rnd := 0, after := .toIdle }
  else respond .ok [] { s with lanes := lanes, cursor := cursor }

/-- ACCEPT of FINISH with VALID = 1 (R144): the pad as two XORs, the second into what the first left. -/
def acceptFinish (s : State) : State :=
  { s with
    lanes := memXor (memXor s.lanes s.cursor.toNat 0x06#8) (s.rate - 1) 0x80#8
    cursor := BitVec.ofNat 8 s.rate
    phase := .rounds
    rnd := 0
    after := .toSqueeze }

/-- ACCEPT of a decoded command (R142 to R144). INIT and RESET do all of R121 and R124 in this one step. -/
def acceptInstr : Instr → State → Host.Outcome State Fault Refusal
  | .init size, s => execInit size s
  | .absorb byte, s => whenConfigured s fun s => whenCursorInWindow s (acceptAbsorb byte)
  | .finish, s => whenConfigured s fun s => whenCursorInWindow s acceptFinish
  | .reset, s => execReset s

/-- ACCEPT of a word (R142 to R144). -/
def acceptWord (w : CmdWord) (s : State) : Host.Outcome State Fault Refusal :=
  match decode w with
  | .ok i => acceptInstr i s
  | .error _ => .next (raiseError .illegalCommand s)

/-- What follows the last round (R145). -/
def endOfRounds (s : State) : State :=
  match s.after with
  | .toIdle => respond .ok [] { s with phase := .idle }
  | .toSqueeze => { s with phase := .squeeze }

/-- ROUND (R145). -/
def roundStep (s : State) : State :=
  let lanes := keccakRound s.lanes s.rnd
  if s.rnd.val < 23 then { s with lanes := lanes, rnd := s.rnd + 1 }
  else endOfRounds { s with lanes := lanes, rnd := 0, cursor := 0#8 }

/-- SQUEEZE (R146): the digest is read, then the lanes are zeroed; CURSOR is already 0. -/
def squeezeStep (s : State) : State :=
  respond .ok (squeeze s) { s with lanes := zeroLanes, phase := .idle }

/-- The micro-step that needs nothing from the host: the one enabled in ROUNDS or SQUEEZE; in IDLE there is none and the
engine waits (R140, R149). -/
def engineStep (s : State) : State :=
  match s.phase with
  | .idle => s
  | .rounds => roundStep s
  | .squeeze => squeezeStep s

/-- At most `n` micro-steps, stopping in IDLE. -/
def runToIdle : Nat → State → State
  | 0, s => s
  | n + 1, s => if s.phase = .idle then s else runToIdle n (engineStep s)

/-- A whole command by micro-steps: ACCEPT, then micro-steps until PHASE is IDLE again (R147); 25 are enough (R148). -/
def runWordMicro (w : CmdWord) (s : State) : Host.Outcome State Fault Refusal :=
  match acceptWord w s with
  | .next t => .next (runToIdle 25 t)
  | .fault f => .fault f
  | .refused r => .refused r

/-- The number of micro-steps of a decoded command (R148): 1; 1 + 24 for an ABSORB at the boundary; 1 + 24 + 1 for a
FINISH. It reads VALID, MODE and CURSOR only (R189). -/
def instrMicroSteps : Instr → State → Nat
  | .init _, _ => 1
  | .absorb _, s => if s.valid && s.fillsWindow then 1 + 24 else 1
  | .finish, s => if s.valid then 1 + 24 + 1 else 1
  | .reset, _ => 1

/-- The number of micro-steps of the command a word spells; an error is one step (R148). -/
def microSteps (w : CmdWord) (s : State) : Nat :=
  match decode w with
  | .ok i => instrMicroSteps i s
  | .error _ => 1

end Sys2Proof.Machine
end

