-- ==== Sys2Proof/Machine/Command.lean ====
section
/-! DEFINITION. One command step on a word (42_commands.md R120): decode it, run the command, or raise IllegalCommand; and
what a sequence of words costs in micro-steps (43_sequencer.md R148). -/

namespace Sys2Proof.Machine

/-- step(word) of R120, the command level. Check (1), ILLEGAL, comes first (R166); checks (2) and (3) are in the meanings of
the commands. An illegal word changes no state, whatever VALID is (R163). -/
def runWord (w : CmdWord) (s : State) : Host.Outcome State Fault Refusal :=
  match decode w with
  | .ok i => exec i s
  | .error _ => .next (raiseError .illegalCommand s)

/-- The micro-steps a command sequence costs, word by word (R148), each word run from the state the one before it left. -/
def sequenceMicroSteps : List CmdWord → State → Nat
  | [], _ => 0
  | w :: ws, s =>
    microSteps w s +
      match runWord w s with
      | .next t => sequenceMicroSteps ws t
      | _ => 0

end Sys2Proof.Machine
end

