-- ==== Sys2Proof/Machine/Ports.lean ====
section
/-! DEFINITION. The command port, the response port and `rst` (30_encoding.md R61, 70_reset_and_hazards.md R180, R182, R185,
R186): what one step does with what the host drives. -/

namespace Sys2Proof.Machine

/-- `cmd_ready`: PHASE = IDLE and the previous response has been taken (R61). -/
def State.cmdReady (s : State) : Bool := decide (s.phase = .idle) && s.rsp.isNone

/-- `rsp_valid` (R61). -/
def State.rspValid (s : State) : Bool := s.rsp.isSome

/-- A host that drives nothing: `rst` = 0, `cmd_valid` = 0, `rsp_ready` = 0. -/
def PortInput.quiet : PortInput := ⟨false, none, false⟩

/-- A host that shows a word: `cmd_valid` = 1, `cmd_word` = w. -/
def PortInput.send (w : CmdWord) : PortInput := ⟨false, some w, false⟩

/-- A host that takes the response: `rsp_ready` = 1. -/
def PortInput.take : PortInput := ⟨false, none, true⟩

/-- A host that resets the engine: `rst` = 1. -/
def PortInput.reset : PortInput := ⟨true, none, false⟩

/-- What the host drives at this step; past the end of `inputs` it drives nothing (log 2). -/
def State.input (s : State) : PortInput := s.inputs.headD .quiet

/-- The state with this step's input used up. -/
def State.dropInput (s : State) : State := { s with inputs := s.inputs.tail }

/-- One step of the engine with its ports, `accept` being what it does with a word it accepts. `rst` wins over everything
(R180, R182). While a response waits nothing else happens: it goes when `rsp_ready` is 1 and stays otherwise, and no word
is accepted (R61, R186). In ROUNDS and SQUEEZE the enabled micro-step runs, needing nothing from the host (R149). In IDLE
a word shown is accepted; with none the engine waits (R149). Log 1, log 4, log 17. -/
def portStep (accept : CmdWord → State → Host.Outcome State Fault Refusal) (s : State) :
    Host.Outcome State Fault Refusal :=
  let i := s.input
  let s := s.dropInput
  if i.rst then .next (hardwareReset s)
  else
    match s.rsp with
    | some _ => .next (if i.rspReady then { s with rsp := none } else s)
    | none =>
      match s.phase with
      | .rounds => .next (roundStep s)
      | .squeeze => .next (squeezeStep s)
      | .idle =>
        match i.cmd with
        | some w => accept w s
        | none => .next s

/-- The engine as a machine of micro-steps (R140 to R146): an accepted word takes its ACCEPT step only. -/
def microStep (s : State) : Host.Outcome State Fault Refusal := portStep acceptWord s

/-- The micro-step machine in the host's form, for runs of it. -/
def microCore : Host.Core :=
  { State := State, Fault := Fault, Refusal := Refusal, step := microStep, reset := State.reset }

/-- The state in which the very next step accepts the word `w`: the host shows it at that step, in front of whatever it
drives later, the engine is idle and the previous response has been taken (log 9). -/
def offerWord (w : CmdWord) (s : State) : State :=
  { s with phase := .idle, rsp := none, inputs := .send w :: s.inputs }

/-- The host's side of a command sequence: show each word, then take its response (R61). -/
def sendAll (ws : List CmdWord) : List PortInput := ws.flatMap fun w => [.send w, .take]

end Sys2Proof.Machine
end

