-- ==== Sys2Proof/Machine/Step.lean ====
section
/-! DEFINITION. One step of KECCAK-CORE. A word the engine accepts is run whole, as the command level says
(42_commands.md R120), which is normative (43_sequencer.md R147); the machine of micro-steps beside it is
`microStep`. -/

namespace Sys2Proof.Machine

/-- One step: the ports of R61, with `runWord` (R120) for an accepted word (log 1). -/
def step (s : State) : Host.Outcome State Fault Refusal := portStep runWord s

/-- The opcode table's word, shown by the host at the next step, which accepts it (log 9). The machine fetches nothing: the
host presents each word on the command port (R24, R51). -/
def State.withFetchWord (s : State) (nbits w : Nat) : State := offerWord (tableWord nbits w) s

end Sys2Proof.Machine
end

