-- ==== Sys2Proof/Machine/Assembler.lean ====
section
/-! DEFINITION. The assembler of command sequences (30_encoding.md R70, R71; 42_commands.md R125 to R128): lines, their expansion
to command words, and their text. It is the host's tool: the engine sees the words only. What R70 and R71 do not fix about
the text is log 15, about ABSORB_BLOCK's mode log 16. -/

namespace Sys2Proof.Machine

/-- One line of a command sequence (R70, R71). -/
inductive AsmLine where
  /-- `INIT n`, `ABSORB b`, `FINISH`, `RESET`. -/
  | command (i : Instr)
  /-- `.word w`. -/
  | rawWord (w : Nat)
  /-- `UPDATE b0 b1 ...` or `UPDATE "text"` (R125). -/
  | update (bytes : List Byte)
  /-- `ABSORB_BLOCK b0 ...` (R126). -/
  | absorbBlock (bytes : List Byte)
  /-- `HASH n, bytes` (R127). -/
  | hash (size : Nat) (bytes : List Byte)
  deriving DecidableEq, Repr

/-- Why a line does not assemble. -/
inductive AsmError where
  /-- A size of 4096 or more, or a raw word of 65536 or more (R70). -/
  | operandTooLarge (n : Nat)
  /-- ABSORB_BLOCK without exactly RATE bytes (R71). -/
  | blockLength (given rate : Nat)
  /-- ABSORB_BLOCK where no accepted INIT precedes, so RATE is not known (R126). -/
  | blockWithoutMode
  deriving DecidableEq, Repr

/-- The MODE the words so far have set: that of the last INIT, `none` if it was rejected or there was none (R126). -/
def trackMode (mode : Option Mode) (w : CmdWord) : Option Mode :=
  match decode w with
  | .ok (.init size) => Mode.ofSize size
  | _ => mode

/-- One ABSORB word per byte, none for no byte (R125). -/
def absorbWords (bytes : List Byte) : List CmdWord := bytes.map fun b => encode (.absorb b)

/-- The words of one line, after words that set `mode` (R70, R71, R125 to R127). -/
def assembleLine (mode : Option Mode) : AsmLine → Except AsmError (List CmdWord)
  | .command (.init size) => if size < 4096 then .ok [encode (.init size)] else .error (.operandTooLarge size)
  | .command (.absorb b) => .ok [encode (.absorb b)]
  | .command .finish => .ok [encode .finish]
  | .command .reset => .ok [encode .reset]
  | .rawWord w => if w < 65536 then .ok [BitVec.ofNat 16 w] else .error (.operandTooLarge w)
  | .update bytes => .ok (absorbWords bytes)
  | .absorbBlock bytes =>
    match mode with
    | none => .error .blockWithoutMode
    | some m => if bytes.length = m.rate then .ok (absorbWords bytes) else .error (.blockLength bytes.length m.rate)
  | .hash size bytes =>
    if size < 4096 then .ok (encode (.init size) :: (absorbWords bytes ++ [encode .finish]))
    else .error (.operandTooLarge size)

/-- The words of a command sequence, in order (R70). -/
def assemble (mode : Option Mode) : List AsmLine → Except AsmError (List CmdWord)
  | [] => .ok []
  | l :: ls =>
    match assembleLine mode l with
    | .error e => .error e
    | .ok ws =>
      match assemble (ws.foldl trackMode mode) ls with
      | .error e => .error e
      | .ok rest => .ok (ws ++ rest)

/-! ### Text -/

/-- A token of a line: a word, a quoted text, or a quoted character. -/
inductive AsmToken where
  | word (chars : List Char)
  | text (bytes : List Byte)
  | character (byte : Byte)
  deriving DecidableEq, Repr

/-- Where the tokenizer is: between tokens, inside a word, inside a quoted text (letters read so far, last one first). -/
inductive LexState where
  | between
  | inWord (chars : List Char)
  | inText (bytes : List Byte)
  deriving DecidableEq, Repr

def semicolon : Char := Char.ofNat 59

def doubleQuote : Char := Char.ofNat 34

def singleQuote : Char := Char.ofNat 39

/-- The token being read, ended. -/
def LexState.close : LexState → List AsmToken
  | .inWord chars => [.word chars.reverse]
  | _ => []

/-- The tokens of a line; `;` outside quotes starts a comment, blanks and commas separate (R70; log 15). `none`: a quote left
open, or a character that is not ASCII in one. -/
def tokenize : LexState → List Char → Option (List AsmToken)
  | .inText _, [] => none
  | st, [] => some st.close
  | .inText acc, c :: cs =>
    if c = doubleQuote then (tokenize .between cs).map (.text acc.reverse :: ·)
    else if c.toNat < 128 then tokenize (.inText (BitVec.ofNat 8 c.toNat :: acc)) cs
    else none
  | .between, c :: d :: e :: cs =>
    if c = singleQuote then
      if e = singleQuote ∧ d.toNat < 128 then
        (tokenize .between cs).map (.character (BitVec.ofNat 8 d.toNat) :: ·)
      else none
    else if c = semicolon then some []
    else if c.isWhitespace || c == ',' then tokenize .between (d :: e :: cs)
    else if c = doubleQuote then tokenize (.inText []) (d :: e :: cs)
    else tokenize (.inWord [c]) (d :: e :: cs)
  | .between, c :: cs =>
    if c = semicolon then some []
    else if c.isWhitespace || c == ',' then tokenize .between cs
    else if c = doubleQuote then tokenize (.inText []) cs
    else if c = singleQuote then none
    else tokenize (.inWord [c]) cs
  | .inWord acc, c :: cs =>
    if c = semicolon then some [.word acc.reverse]
    else if c.isWhitespace || c == ',' then (tokenize .between cs).map (.word acc.reverse :: ·)
    else tokenize (.inWord (c :: acc)) cs

/-- The value of one digit in the given base. -/
def digitValue (base : Nat) (c : Char) : Option Nat :=
  let v :=
    if '0' ≤ c ∧ c ≤ '9' then some (c.toNat - '0'.toNat)
    else if 'a' ≤ c ∧ c ≤ 'f' then some (c.toNat - 'a'.toNat + 10)
    else if 'A' ≤ c ∧ c ≤ 'F' then some (c.toNat - 'A'.toNat + 10)
    else none
  v.filter (· < base)

/-- A non-empty row of digits as a number. -/
def digitsValue (base : Nat) (cs : List Char) : Option Nat :=
  if cs.isEmpty then none
  else cs.foldl (fun acc c => acc.bind fun n => (digitValue base c).map (base * n + ·)) (some 0)

/-- A decimal or 0x-hexadecimal number (R70). -/
def parseNumber : List Char → Option Nat
  | '0' :: 'x' :: cs => digitsValue 16 cs
  | cs => digitsValue 10 cs

/-- An operand that is a number. -/
def tokenNumber : AsmToken → Option Nat
  | .word cs => parseNumber cs
  | _ => none

/-- An operand that is a byte: a number 0 to 255 or a quoted ASCII character (R70). -/
def tokenByte : AsmToken → Option Byte
  | .word cs => ((parseNumber cs).filter (· < 256)).map (BitVec.ofNat 8)
  | .character b => some b
  | .text _ => none

/-- The operand of UPDATE, HASH and ABSORB_BLOCK: a row of bytes (R71), or one quoted text. R71 gives the text form for
UPDATE only; that HASH and ABSORB_BLOCK take it too is the model's choice (DESIGN CHOICE, log 15). -/
def tokenBytes : List AsmToken → Option (List Byte)
  | [.text bytes] => some bytes
  | ts => ts.mapM tokenByte

/-- One line of text: `some none` for a line with nothing on it, `none` for a line that is no command (R70, R71). The operand
of ABSORB_BLOCK may be a quoted text as well as the byte row of R71 and R126 (DESIGN CHOICE, log 15); either way it must
have RATE bytes (`assembleLine`). -/
def parseTokens : List AsmToken → Option (Option AsmLine)
  | [] => some none
  | .word m :: ts =>
    if m = "INIT".toList ∨ m = "create".toList then
      match ts with
      | [t] => (tokenNumber t).map fun n => some (.command (.init n))
      | _ => none
    else if m = "ABSORB".toList then
      match ts with
      | [t] => (tokenByte t).map fun b => some (.command (.absorb b))
      | _ => none
    else if m = "FINISH".toList ∨ m = "finish".toList then if ts.isEmpty then some (some (.command .finish)) else none
    else if m = "RESET".toList ∨ m = "reset".toList then if ts.isEmpty then some (some (.command .reset)) else none
    else if m = ".word".toList then
      match ts with
      | [t] => (tokenNumber t).map fun n => some (.rawWord n)
      | _ => none
    else if m = "UPDATE".toList ∨ m = "update".toList then (tokenBytes ts).map fun bs => some (.update bs)
    else if m = "ABSORB_BLOCK".toList then (tokenBytes ts).map fun bs => some (.absorbBlock bs)
    else if m = "HASH".toList then
      match ts with
      | t :: ts => (tokenNumber t).bind fun n => (tokenBytes ts).map fun bs => some (.hash n bs)
      | [] => none
    else none
  | _ => none

/-- A line of text as a line of the sequence (R70, R71). -/
def parseLine (line : List Char) : Option (Option AsmLine) := (tokenize .between line).bind parseTokens

/-- A hexadecimal digit, 0 to 15, in lower case: R70 does not say which case a trace line has (DESIGN CHOICE, log 15). -/
def hexDigit (n : Nat) : Char := "0123456789abcdef".toList.getD n '0'

/-- A byte as two lower-case hexadecimal digits (log 15). -/
def hexByte (b : Byte) : List Char := [hexDigit (b.toNat / 16), hexDigit (b.toNat % 16)]

/-- The trace line `word -> status payload` of a command and its response (R70; log 15). -/
def traceLine (w : CmdWord) (r : Response) : List Char :=
  "0x".toList ++ hexByte (w.extractLsb' 8 8) ++ hexByte (w.extractLsb' 0 8) ++ " -> ".toList ++
    [hexDigit r.status.code.toNat, ' '] ++
    (if r.payload.isEmpty then "empty".toList else r.payload.flatMap hexByte)

end Sys2Proof.Machine
end

