-- ==== Sys2Proof/Config.lean ====
section
/-! DEFINITION. What an implementation of KECCAK-CORE fixes and the spec leaves OPEN: the four timing parameters and the
four identity labels. They are constants without a body, so no proof can learn a value of one. The algorithm's own
constants (rates, rotation offsets, round constants) are no configuration: R6, R87 and R88 fix them, and they stand with
the operations that use them under Machine/. -/

namespace Sys2Proof.Config

/-- T_ACCEPT: clock cycles of the ACCEPT micro-step (70_reset_and_hazards.md R188, D20; log 14). -/
opaque tAccept : Nat

/-- T_ROUND: clock cycles of one ROUND micro-step (R188, D20; log 14). -/
opaque tRound : Nat

/-- T_SQUEEZE: clock cycles of the SQUEEZE micro-step (R188, D20; log 14). -/
opaque tSqueeze : Nat

/-- T_RSP: clock cycles from the last micro-step to `rsp_valid` (R188, D20; log 14). -/
opaque tRsp : Nat

/-- VENDOR, an OPEN label no rule uses (R2, D29, V9; log 14). -/
opaque vendor : String

/-- PART, an OPEN label no rule uses (R2, D29, V9; log 14). -/
opaque part : String

/-- BLOCK_VERSION, an OPEN label no rule uses (R2, D29, V9; log 14). -/
opaque blockVersion : String

/-- STANDARD_EDITION, an OPEN label no rule uses (R2, D29, V9; log 14). -/
opaque standardEdition : String

end Sys2Proof.Config
end

