-- ==== Sys2Proof/Machine/Timing.lean ====
section
/-! DEFINITION. The latency bookkeeping of 70_reset_and_hazards.md R188 over the OPEN parameters of Config. It is no promise and
no rule depends on it (R188, D20; log 14). -/

namespace Sys2Proof.Machine

/-- A decoded command's latency in cycles: T_ACCEPT, T_ACCEPT + 24 * T_ROUND, or T_ACCEPT + 24 * T_ROUND + T_SQUEEZE, plus
T_RSP (R188). -/
def instrLatency : Instr → State → Nat
  | .init _, _ => Config.tAccept + Config.tRsp
  | .absorb _, s =>
    if s.valid && s.fillsWindow then Config.tAccept + 24 * Config.tRound + Config.tRsp
    else Config.tAccept + Config.tRsp
  | .finish, s =>
    if s.valid then Config.tAccept + 24 * Config.tRound + Config.tSqueeze + Config.tRsp
    else Config.tAccept + Config.tRsp
  | .reset, _ => Config.tAccept + Config.tRsp

/-- The latency of the command a word spells (R188). -/
def latency (w : CmdWord) (s : State) : Nat :=
  match decode w with
  | .ok i => instrLatency i s
  | .error _ => Config.tAccept + Config.tRsp

end Sys2Proof.Machine
end

