-- ==== Sys2Proof/Safety.lean ====
section
/-! DEFINITION. What a state of a run is (10_state.md R34) and what a safe run is, in the terms the statements use. -/

namespace Sys2Proof.Machine

/-- R34 (a): a configured engine has CURSOR below RATE. -/
abbrev State.cursorBelowRate (s : State) : Prop := s.valid = true → s.cursor.toNat < s.rate

/-- R34 (b): an unconfigured engine is zeroed. -/
abbrev State.unconfiguredZero (s : State) : Prop :=
  s.valid = false → s.cursor = 0#8 ∧ s.mode = .m224 ∧ s.lanes = zeroLanes

/-- R34 (a), (b), (c): what holds whenever the engine is idle. -/
abbrev State.IdleInv (s : State) : Prop :=
  s.cursorBelowRate ∧ s.unconfiguredZero ∧ s.phase = .idle ∧ s.rnd = 0

/-- While rounds run the session is configured, CURSOR holds RATE and no response waits (R143 to R145). -/
abbrev State.RoundsInv (s : State) : Prop :=
  s.valid = true ∧ s.cursor.toNat = s.rate ∧ s.rsp = none

/-- Before the squeeze the session is configured, CURSOR and RND are back at 0 and no response waits (R145, R146). -/
abbrev State.SqueezeInv (s : State) : Prop :=
  s.valid = true ∧ s.cursor = 0#8 ∧ s.rnd = 0 ∧ s.after = .toSqueeze ∧ s.rsp = none

/-- A response the engine can produce (R69, R160, V4): `rsp_len` is 0, or one of the four OB with status OK; every bit of
`rsp_data` at or above 8 * `rsp_len` is 0. -/
abbrev Response.Legal (r : Response) : Prop :=
  (r.len = 0#7 ∨ r.status = .ok ∧ r.len.toNat ∈ [28, 32, 48, 64]) ∧ r.data >>> (8 * r.len.toNat) = 0#512

/-- What holds in every state a run reaches, between commands and inside one (R34 for PHASE = IDLE). -/
def State.Inv (s : State) : Prop :=
  (s.phase = .idle → s.IdleInv) ∧ (s.phase = .rounds → s.RoundsInv) ∧ (s.phase = .squeeze → s.SqueezeInv) ∧
    ∀ r, s.rsp = some r → r.Legal

/-- The step does not stop the machine. -/
def Continues (o : Host.Outcome State Fault Refusal) : Prop := ∃ t, o = .next t

/-- The architectural state (A, CURSOR, MODE, VALID) of R14. -/
def State.arch (s : State) : Lanes × BitVec 8 × Mode × Bool := (s.lanes, s.cursor, s.mode, s.valid)

/-- A word with the byte of an ABSORB forgotten: what is left of a command when message bytes are ignored (R189). -/
def wordShape (w : CmdWord) : CmdWord :=
  match decode w with
  | .ok (.absorb _) => encode (.absorb 0#8)
  | _ => w

/-- A step's input with the byte of an ABSORB forgotten. -/
def PortInput.shape (i : PortInput) : PortInput := { i with cmd := i.cmd.map wordShape }

/-- Everything but the data: neither lanes, nor a response's contents, nor message bytes still to come. It is what the
sequencer's control depends on (R131, R189). -/
def State.control (s : State) :
    BitVec 8 × Mode × Bool × Phase × Fin 24 × After × Bool × List PortInput :=
  (s.cursor, s.mode, s.valid, s.phase, s.rnd, s.after, s.rspValid, s.inputs.map PortInput.shape)

end Sys2Proof.Machine
end

