-- ==== Sys2Proof/Certificates/Slice0/Obligations.lean ====
section
/-! DEFINITION. The statements for the provers, each with the rule of spec/ it formalises. -/

open Sys2Proof Sys2Proof.Machine

/-! ### Encoding (30_encoding.md) -/

/-- Words written out from R63 to R65 and the table of 95_test_vectors.md section 6 decode to the commands they stand for. -/
def Obligations.WrittenWordsDecode : Prop :=
  decode 0x10E0#16 = .ok (.init 224) ∧ decode 0x1FFF#16 = .ok (.init 4095) ∧
    decode 0x20FF#16 = .ok (.absorb 0xFF#8) ∧ decode 0x3000#16 = .ok .finish ∧ decode 0x4000#16 = .ok .reset ∧
    decode 0x2161#16 = .error (.absorbReservedBits 0x161#12) ∧ decode 0x0000#16 = .error (.reservedOpcode 0x0#4)

/-- Decoding the word of a well-formed command gives the command back, with every operand its field admits. -/
def Obligations.DecodeInvertsEncode : Prop :=
  ∀ i : Instr, i.wellFormed = true → decode (encode i) = .ok i

/-- A word that decodes is the word of what it decodes to, and that is well formed: no two words spell one command. -/
def Obligations.EncodeInvertsDecode : Prop :=
  ∀ (w : CmdWord) (i : Instr), decode w = .ok i → i.wellFormed = true ∧ encode i = w

/-- R63: the legal words are those of the four match and mask pairs, with the operand R63 gives each; at most one row
matches; the all-zero and all-ones words are illegal. -/
def Obligations.LegalWordsAreTheFourPatterns : Prop :=
  ∀ w : CmdWord,
    ((∃ size, decode w = .ok (.init size)) ↔ w &&& 0xF000#16 = 0x1000#16) ∧
    ((∃ b, decode w = .ok (.absorb b)) ↔ w &&& 0xFF00#16 = 0x2000#16) ∧
    (decode w = .ok .finish ↔ w &&& 0xFFFF#16 = 0x3000#16) ∧
    (decode w = .ok .reset ↔ w &&& 0xFFFF#16 = 0x4000#16) ∧
    (∀ size, decode w = .ok (.init size) → size = w.toNat % 4096) ∧
    (∀ b, decode w = .ok (.absorb b) → b.toNat = w.toNat % 256) ∧
    (opcodeRows.filter (·.accepts w)).length ≤ 1 ∧
    ((∃ i, decode w = .ok i) → w ≠ 0x0000#16 ∧ w ≠ 0xFFFF#16)

/-! ### State and byte space (10_state.md, 20_memory.md) -/

/-- R26: where the three control fields stand in CTL. -/
def Obligations.CtlHoldsTheThreeFields : Prop :=
  ∀ s : State, s.ctl.extractLsb' 0 8 = s.cursor ∧ s.ctl.extractLsb' 8 2 = s.mode.code ∧
    s.ctl.extractLsb' 10 1 = BitVec.ofBool s.valid

/-- R6, R27: size, code, OB and RATE of each MODE; every RATE is a whole number of lanes and every OB is below RATE. -/
def Obligations.ModeDecidesOutputAndRate : Prop :=
  ([Mode.m224, .m256, .m384, .m512].map fun m => (m.size, m.code.toNat, m.ob, m.rate)) =
      [(224, 0, 28, 144), (256, 1, 32, 136), (384, 2, 48, 104), (512, 3, 64, 72)] ∧
    ∀ m : Mode, m.rate = 200 - 2 * m.ob ∧ m.rate % 8 = 0 ∧ m.ob < m.rate

/-- R12, R40: writing a byte of the space changes that byte and no other. -/
def Obligations.ByteWriteIsReadBack : Prop :=
  ∀ (S : Lanes) (b : Nat) (x : Byte), b < 200 →
    byteAt (setByteAt S b x) b = x ∧ ∀ c < 200, c ≠ b → byteAt (setByteAt S b x) c = byteAt S c

/-- R40, R41: a lane is its eight bytes, the byte at the lowest offset the least significant. -/
def Obligations.LaneIsItsEightBytes : Prop :=
  ∀ (S : Lanes) (i : Nat), i < 25 →
    (laneAt S i).toNat = ((List.range 8).map fun k => (byteAt S (8 * i + k)).toNat * 2 ^ (8 * k)).sum

/-- R12: MemXor(b, v) is MemWrite(b, 1, MemRead(b, 1) xor v). -/
def Obligations.MemXorIsReadXorWrite : Prop :=
  ∀ (S : Lanes) (b : Nat) (v : Byte), b < 200 →
    memXor S b v = memWrite S b ((memRead S b 1).map (· ^^^ v))

/-- The list of cells, the model's view of the byte space (log 8), determines the lanes. -/
def Obligations.CellsDetermineLanes : Prop :=
  ∀ S T : Lanes, memCells S = memCells T → S = T

/-! ### The permutation (40_permutation.md) -/

/-- R10: rotl by its formula and by where each bit goes. -/
def Obligations.RotlMovesEveryBit : Prop :=
  ∀ v : Lane, rotl v 0 = v ∧
    (∀ n, 1 ≤ n → n ≤ 63 → (rotl v n).toNat = v.toNat * 2 ^ n % 2 ^ 64 + v.toNat / 2 ^ (64 - n)) ∧
    ∀ n ≤ 63, ∀ j < 64, (rotl v n).getLsbD ((j + n) % 64) = v.getLsbD j

/-- R82: Theta, lane by lane. -/
def Obligations.ThetaLanes : Prop :=
  ∀ (S : Lanes) (x y : Nat), x < 5 → y < 5 →
    let C := fun x : Nat => laneAt S x ^^^ laneAt S (x + 5) ^^^ laneAt S (x + 10) ^^^ laneAt S (x + 15) ^^^ laneAt S (x + 20)
    laneAt (theta S) (x + 5 * y) =
      laneAt S (x + 5 * y) ^^^ (C (if x = 0 then 4 else x - 1) ^^^ rotl (C (if x = 4 then 0 else x + 1)) 1)

/-- R83, R87: Rho rotates the lane at (x, y) by the offset in row y, column x of the table. -/
def Obligations.RhoLanes : Prop :=
  ∀ (S : Lanes) (x y : Nat), x < 5 → y < 5 →
    laneAt (rho S) (x + 5 * y) =
      rotl (laneAt S (x + 5 * y))
        (([[0, 1, 62, 28, 27], [36, 44, 6, 55, 20], [3, 10, 43, 25, 39], [41, 45, 15, 21, 8],
          [18, 2, 61, 56, 14]].getD y []).getD x 0)

/-- R84: the lane at (x, y) moves to (y, (2x + 3y) mod 5), and the two index lists say the same. -/
def Obligations.PiMovesLanes : Prop :=
  ∀ S : Lanes,
    (∀ x < 5, ∀ y < 5, laneAt (pi S) (y + 5 * ((2 * x + 3 * y) % 5)) = laneAt S (x + 5 * y)) ∧
    (∀ i < 25, laneAt (pi S) (piDest.getD i 0) = laneAt S i) ∧
    ∀ j < 25, laneAt (pi S) j = laneAt S (piSource.getD j 0)

/-- R85: Chi, lane by lane, each from the row's input values. -/
def Obligations.ChiLanes : Prop :=
  ∀ (S : Lanes) (x y : Nat), x < 5 → y < 5 →
    laneAt (chi S) (x + 5 * y) =
      laneAt S (x + 5 * y) ^^^ (~~~ laneAt S ((x + 1) % 5 + 5 * y) &&& laneAt S ((x + 2) % 5 + 5 * y))

/-- R86: Iota XORs RC[i] into lane (0, 0) and leaves the other 24 lanes. The constants stand as R88's table has them: row k
holds RC[k], RC[k + 8] and RC[k + 16]. -/
def Obligations.IotaChangesLaneZeroOnly : Prop :=
  ∀ (S : Lanes) (i : Fin 24),
    laneAt (iota S i) 0 =
      laneAt S 0 ^^^
        (([[0x0000000000000001#64, 0x000000000000008A#64, 0x8000000000008002#64],
          [0x0000000000008082#64, 0x0000000000000088#64, 0x8000000000000080#64],
          [0x800000000000808A#64, 0x0000000080008009#64, 0x000000000000800A#64],
          [0x8000000080008000#64, 0x000000008000000A#64, 0x800000008000000A#64],
          [0x000000000000808B#64, 0x000000008000808B#64, 0x8000000080008081#64],
          [0x0000000080000001#64, 0x800000000000008B#64, 0x8000000000008080#64],
          [0x8000000080008081#64, 0x8000000000008089#64, 0x0000000080000001#64],
          [0x8000000000008009#64, 0x8000000000008003#64, 0x8000000080008008#64]].getD
            (i.val % 8) []).getD (i.val / 8) 0#64) ∧
    ∀ j, 1 ≤ j → j < 25 → laneAt (iota S i) j = laneAt S j

/-- R93: a round with rho and pi merged into one lane move along the index list of R84 is the same round. -/
def Obligations.MergedRoundIsRound : Prop :=
  ∀ (S : Lanes) (i : Fin 24), roundMerged S i = keccakRound S i

/-- R145: from RND = 0, the n-th of the first 23 ROUND steps leaves RND = n and the rounds running; the 24th has applied
Permute, zeroed CURSOR and RND, and gone where AFTER says, with the response of an ABSORB if that is IDLE. -/
def Obligations.TwentyFourRoundStepsPermute : Prop :=
  ∀ s : State, s.phase = .rounds → s.rnd = 0 →
    (∀ n ≤ 23, (engineStep^[n] s).phase = .rounds ∧ (engineStep^[n] s).rnd.val = n ∧
      (engineStep^[n] s).cursor = s.cursor) ∧
    engineStep^[24] s =
      match s.after with
      | .toIdle => { s with lanes := permute s.lanes, cursor := 0#8, phase := .idle, rsp := some (.ofPair .ok []) }
      | .toSqueeze => { s with lanes := permute s.lanes, cursor := 0#8, phase := .squeeze }

/-! ### The sponge (41_sponge.md) -/

/-- R103: AbsorbBytes of n bytes from CURSOR = c runs Permute (c + n) div RATE times and ends with CURSOR = (c + n) mod
RATE; no byte does nothing, one byte is AbsorbByte, and two chunks are their concatenation. -/
def Obligations.AbsorbBytesCountsWindows : Prop :=
  ∀ (s : State) (bytes more : List Byte), s.cursor.toNat < s.rate →
    permCount s bytes = (s.cursor.toNat + bytes.length) / s.rate ∧
    (absorbBytes s bytes).cursor.toNat = (s.cursor.toNat + bytes.length) % s.rate ∧
    absorbBytes s [] = s ∧ (∀ b, absorbBytes s [b] = absorbByte s b) ∧
    absorbBytes s (bytes ++ more) = absorbBytes (absorbBytes s bytes) more

/-- R104: a run of zero bytes that does not reach the boundary only moves CURSOR. -/
def Obligations.ZeroBytesOnlyMoveCursor : Prop :=
  ∀ (s : State) (n : Nat), s.cursor.toNat + n < s.rate →
    absorbBytes s (List.replicate n 0x00#8) = { s with cursor := BitVec.ofNat 8 (s.cursor.toNat + n) }

/-- R106: the pad block is RATE - CURSOR bytes; 86 alone, or 06, zeros, 80. -/
def Obligations.PadBlockShape : Prop :=
  ∀ cursor rate : Nat, cursor < rate →
    (padBlock cursor rate).length = rate - cursor ∧
    (rate - cursor = 1 → padBlock cursor rate = [0x86#8]) ∧
    (2 ≤ rate - cursor →
      padBlock cursor rate = 0x06#8 :: (List.replicate (rate - cursor - 2) 0x00#8 ++ [0x80#8]))

/-- R107, R108: absorbing the pad is two XORs, at CURSOR and at the top of lane RATE/8 - 1, and then exactly one run of
Permute, with CURSOR back at 0. -/
def Obligations.PadIsTwoXorsAndOnePermutation : Prop :=
  ∀ s : State, s.cursor.toNat < s.rate →
    permCount s (padBlock s.cursor.toNat s.rate) = 1 ∧
    ∃ P : Lanes,
      (∀ i < 25, laneAt P i =
        laneAt s.lanes i ^^^ (if i = s.cursor.toNat / 8 then placeByte 0x06#8 (s.cursor.toNat % 8) else 0#64) ^^^
          (if i = s.rate / 8 - 1 then 0x8000000000000000#64 else 0#64)) ∧
      P = memXor (memXor s.lanes s.cursor.toNat 0x06#8) (s.rate - 1) 0x80#8 ∧
      absorbPad s = { s with lanes := permute P, cursor := 0#8 }

/-- R126, R100: RATE bytes absorbed from CURSOR = 0 are XORed into the window and permuted once; CURSOR is 0 again. -/
def Obligations.FullWindowIsXorAndPermute : Prop :=
  ∀ (s : State) (bytes : List Byte), s.cursor = 0#8 → bytes.length = s.rate →
    absorbBytes s bytes = { s with lanes := absorbWindow s.lanes bytes } ∧ permCount s bytes = 1

/-- R111: the hash by AbsorbByte equals the hash by blocks of RATE bytes, and has OB bytes; the padded message is a positive
number of whole blocks. -/
def Obligations.HashByBytesIsHashByBlocks : Prop :=
  ∀ (m : Mode) (msg : List Byte),
    hashOf m msg = hashByBlocks m msg ∧ (hashOf m msg).length = m.ob ∧
    (paddedMessage m msg).length % m.rate = 0 ∧ 0 < (paddedMessage m msg).length

/-! ### The commands (42_commands.md) -/

/-- R121: what INIT does from any state, for an accepted size and for every other number; the two status codes are 0 and 1
(R160). -/
def Obligations.InitConfiguresOrRejects : Prop :=
  ∀ (size : Nat) (s : State),
    (∀ m : Mode, size = m.size →
      exec (.init size) s =
        .next { s with lanes := zeroLanes, cursor := 0#8, mode := m, valid := true, rsp := some ⟨.ok, 0#7, 0#512⟩ }) ∧
    (size ∉ [224, 256, 384, 512] →
      exec (.init size) s =
        .next { s with
          lanes := zeroLanes, cursor := 0#8, mode := .m224, valid := false
          rsp := some ⟨.unsupportedDigestSize, 0#7, 0#512⟩ }) ∧
    Status.ok.code = 0#4 ∧ Status.unsupportedDigestSize.code = 1#4

/-- R122, R101, R102: what ABSORB does in a configured engine, away from the boundary and at it. That AFTER ends as TO_IDLE
at the boundary is no part of those rules: it is the model's deduction from R143 (log 13). -/
def Obligations.AbsorbTakesOneByte : Prop :=
  ∀ (b : Byte) (s : State), s.valid = true →
    (s.cursor.toNat + 1 < s.rate →
      exec (.absorb b) s =
        .next { s with
          lanes := memXor s.lanes s.cursor.toNat b
          cursor := BitVec.ofNat 8 (s.cursor.toNat + 1)
          rsp := some ⟨.ok, 0#7, 0#512⟩ }) ∧
    (s.cursor.toNat + 1 = s.rate →
      exec (.absorb b) s =
        .next { s with
          lanes := permute (memXor s.lanes s.cursor.toNat b)
          cursor := 0#8
          after := .toIdle
          rsp := some ⟨.ok, 0#7, 0#512⟩ })

/-- R101, R122, R46: an ABSORB away from the boundary XORs its byte into the byte at CURSOR and leaves every other byte of
the space, the capacity among them, and every register but CURSOR. -/
def Obligations.AbsorbFrame : Prop :=
  ∀ (b : Byte) (s t : State), s.valid = true → s.cursor.toNat + 1 < s.rate → exec (.absorb b) s = .next t →
    (∀ a < 200, byteAt t.lanes a =
      if a = s.cursor.toNat then byteAt s.lanes a ^^^ b else byteAt s.lanes a) ∧
    t.cursor.toNat = s.cursor.toNat + 1 ∧ t.mode = s.mode ∧ t.valid = s.valid ∧ t.phase = s.phase ∧
    t.rnd = s.rnd ∧ t.after = s.after ∧ t.inputs = s.inputs

/-- R34 (last sentence), R46: the ACCEPT of an ABSORB or a FINISH, where the input and pad bytes are XORed in, leaves every
byte of the capacity; what changes there is the work of the rounds and of zeroing. -/
def Obligations.AcceptLeavesCapacity : Prop :=
  ∀ (i : Instr) (s t : State), (∃ b, i = .absorb b) ∨ i = .finish → acceptInstr i s = .next t →
    ∀ a, s.rate ≤ a → a < 200 → byteAt t.lanes a = byteAt s.lanes a

/-- R123, R107, R108, R109: what FINISH does in a configured engine: with the pad XORed in and one run of Permute, the first
OB bytes are the response; then lanes and CURSOR are zero. AFTER is left at TO_SQUEEZE (R35). -/
def Obligations.FinishReturnsTheDigest : Prop :=
  ∀ s : State, s.valid = true → s.cursor.toNat < s.rate →
    exec .finish s =
      .next { s with
        lanes := zeroLanes
        cursor := 0#8
        after := .toSqueeze
        rsp := some (.ofPair .ok
          (memRead (permute (memXor (memXor s.lanes s.cursor.toNat 0x06#8) (s.rate - 1) 0x80#8)) 0 s.mode.ob)) }

/-- R69, R109: where FINISH's digest stands on the response port: `rsp_len` is OB, the lanes of the permuted state stand
whole and in order as far as OB reaches, every byte in its place, and every bit above is 0. -/
def Obligations.DigestPlacement : Prop :=
  ∀ (s t : State), s.valid = true → exec .finish s = .next t →
    ∃ (r : Response) (P : Lanes),
      P = (absorbPad s).lanes ∧ t.rsp = some r ∧ r.status = .ok ∧ r.len.toNat = s.mode.ob ∧
      (∀ i, 8 * i + 8 ≤ s.mode.ob → r.data.extractLsb' (64 * i) 64 = laneAt P i) ∧
      (∀ i < s.mode.ob, (r.data.extractLsb' (8 * i) 8).toNat = (laneAt P (i / 8)).toNat / 2 ^ (8 * (i % 8)) % 256) ∧
      r.data >>> (8 * s.mode.ob) = 0#512

/-- R124: what RESET does in a configured engine. -/
def Obligations.ResetZeroesTheSession : Prop :=
  ∀ s : State, s.valid = true →
    exec .reset s = .next { s with lanes := zeroLanes, cursor := 0#8, rsp := some ⟨.ok, 0#7, 0#512⟩ }

/-- R162: in an unconfigured engine ABSORB, FINISH and RESET raise NotConfigured and change nothing but the response. -/
def Obligations.UnconfiguredRaisesNotConfigured : Prop :=
  ∀ (i : Instr) (s : State), s.valid = false → (∀ size, i ≠ .init size) →
    exec i s = .next { s with rsp := some ⟨.notConfigured, 0#7, 0#512⟩ } ∧ Status.notConfigured.code = 2#4

/-- R161: a size that is not accepted raises UnsupportedDigestSize, code 1, and leaves no usable session: every later
command but INIT raises NotConfigured, code 2. -/
def Obligations.RejectedInitLeavesNoSession : Prop :=
  ∀ (size : Nat) (s : State), size ∉ [224, 256, 384, 512] →
    ∃ t, exec (.init size) s = .next t ∧ t.rsp = some ⟨.unsupportedDigestSize, 0#7, 0#512⟩ ∧
      t.arch = (zeroLanes, 0#8, .m224, false) ∧
      (∀ i : Instr, (∀ n, i ≠ .init n) → exec i t = .next { t with rsp := some ⟨.notConfigured, 0#7, 0#512⟩ }) ∧
      Status.unsupportedDigestSize.code = 1#4 ∧ Status.notConfigured.code = 2#4

/-- R163, R67, R166: exactly the words of the reserved opcodes and with a reserved bit set raise IllegalCommand, whatever
VALID is, and change nothing but the response. -/
def Obligations.IllegalWordsChangeNothing : Prop :=
  ∀ (w : CmdWord) (s : State),
    (w.toNat / 4096 = 0 ∨ 5 ≤ w.toNat / 4096 ∨ (w.toNat / 4096 = 2 ∧ w.toNat / 256 % 16 ≠ 0) ∨
      (w.toNat / 4096 = 3 ∧ w.toNat % 4096 ≠ 0) ∨ (w.toNat / 4096 = 4 ∧ w.toNat % 4096 ≠ 0) ↔
        ∃ e, decode w = .error e) ∧
    ((∃ e, decode w = .error e) → runWord w s = .next { s with rsp := some ⟨.illegalCommand, 0#7, 0#512⟩ }) ∧
    Status.illegalCommand.code = 3#4

/-- Log 5, the model's choice: a command stops the machine exactly when it is an ABSORB or FINISH in a configured engine
whose CURSOR is outside the window, where the precondition of R101 and R106 fails; nothing is refused. -/
def Obligations.StopsOnlyOutsideTheWindow : Prop :=
  ∀ (i : Instr) (s : State),
    (exec i s = .fault .cursorOutsideWindow ↔
      ((∃ b, i = .absorb b) ∨ i = .finish) ∧ s.valid = true ∧ s.rate ≤ s.cursor.toNat) ∧
    ∀ r, exec i s ≠ .refused r

/-- R25, R27, R32, R35: what no command changes: only INIT writes MODE and VALID; INIT, RESET and every error leave AFTER;
PHASE, RND and the host's inputs are as before; NotConfigured leaves lanes and CURSOR. -/
def Obligations.CommandFrame : Prop :=
  ∀ (i : Instr) (s t : State), exec i s = .next t →
    t.phase = s.phase ∧ t.rnd = s.rnd ∧ t.inputs = s.inputs ∧
    ((∀ size, i ≠ .init size) → t.mode = s.mode ∧ t.valid = s.valid) ∧
    ((∀ b, i ≠ .absorb b) → i ≠ .finish → t.after = s.after) ∧
    (s.valid = false → (∀ size, i ≠ .init size) →
      t.lanes = s.lanes ∧ t.cursor = s.cursor ∧ t.after = s.after)

/-- R129 (b): after FINISH the architectural state is the one a successful INIT of the same size leaves, whatever either
started from. -/
def Obligations.FinishLeavesAFreshSession : Prop :=
  ∀ (s t u v : State), s.valid = true → exec .finish s = .next t → exec (.init s.mode.size) u = .next v →
    t.arch = v.arch

/-- R14, R69, R160, V4: every completed command leaves exactly one response, and a legal one; a payload only for a
successful FINISH, of OB bytes. -/
def Obligations.EveryCommandResponds : Prop :=
  ∀ (w : CmdWord) (s t : State), runWord w s = .next t →
    ∃ r, t.rsp = some r ∧ r.Legal ∧
      if decode w = .ok .finish ∧ s.valid = true then r.status = .ok ∧ r.len.toNat = s.mode.ob else r.len = 0#7

/-- R167: no error is sticky, and no later response says anything about an earlier one. -/
def Obligations.ResponsesAreNotSticky : Prop :=
  ∀ (w : CmdWord) (s : State) (r : Option Response), runWord w { s with rsp := r } = runWord w s

/-- R14, R69: the pair (status, payload) can be read back from the response port's fields. -/
def Obligations.ResponseCarriesItsPayload : Prop :=
  ∀ (st : Status) (bytes : List Byte), bytes.length ≤ 64 →
    (Response.ofPair st bytes).payload = bytes ∧ (Response.ofPair st bytes).status = st

/-- R125: UPDATE expands to one ABSORB per byte, in order, to none for no byte, and splitting it changes nothing. -/
def Obligations.UpdateSplitsFreely : Prop :=
  ∀ (mode : Option Mode) (a b : List Byte),
    assemble mode [.update []] = .ok [] ∧
    assemble mode [.update a] = .ok (a.map fun x => 0x2000#16 + x.setWidth 16) ∧
    assemble mode [.update a, .update b] = assemble mode [.update (a ++ b)]

/-- R127: `HASH n, bytes` expands to INIT n, UPDATE bytes, FINISH. For an accepted n, sent to an idle engine in any state,
the FINISH response is OK, code 0, with Hash(MODE, bytes), and the engine is a fresh session of that size. For any other n
below 4096 the INIT response has status 1 and every following response has status 2. -/
def Obligations.HashCommandSequence : Prop :=
  ∀ (s : State) (size : Nat) (msg : List Byte) (mode : Option Mode), s.phase = .idle → s.rsp = none → size < 4096 →
    ∃ words, assembleLine mode (.hash size msg) = .ok words ∧
      words = encode (.init size) :: (absorbWords msg ++ [encode .finish]) ∧
      (s.inputs = sendAll words →
        (∀ m : Mode, size = m.size →
          ∃ t, Host.Core.run Sys2Proof.core (2 * msg.length + 3) s = .next t ∧
            t.rsp = some (.ofPair .ok (hashOf m msg)) ∧ t.arch = (zeroLanes, 0#8, m, true)) ∧
        (size ∉ [224, 256, 384, 512] →
          (∃ t, Host.Core.run Sys2Proof.core 1 s = .next t ∧
            t.rsp = some (.ofPair .unsupportedDigestSize [])) ∧
          ∀ k ≤ msg.length, ∃ t, Host.Core.run Sys2Proof.core (2 * k + 3) s = .next t ∧
            t.rsp = some (.ofPair .notConfigured []))) ∧
      Status.ok.code = 0#4 ∧ Status.unsupportedDigestSize.code = 1#4 ∧ Status.notConfigured.code = 2#4

/-! ### Steps, ports, reset (30_encoding.md R61, 70_reset_and_hazards.md) -/

/-- R61, R120: a ready engine that is shown a word, with no reset, runs the command it spells in the state with this step's
input used up; a word that spells none raises IllegalCommand there. -/
def Obligations.StepRunsTheDecodedCommand : Prop :=
  ∀ (s : State) (w : CmdWord), s.cmdReady = true → s.input.rst = false → s.input.cmd = some w →
    (∀ i, decode w = .ok i → step s = exec i { s with inputs := s.inputs.tail }) ∧
    (∀ e, decode w = .error e →
      step s = .next (raiseError .illegalCommand { s with inputs := s.inputs.tail }))

/-- Log 9: a word placed by `withFetchWord` is the one the next step runs, in the state with the engine idle and the
previous response taken. -/
def Obligations.FetchedWordRunsNext : Prop :=
  ∀ (s : State) (w : Nat) (i : Instr), w < 65536 → decode (BitVec.ofNat 16 w) = .ok i →
    decodeTableWord 16 w = some i ∧
    step (s.withFetchWord 16 w) = exec i { s with phase := .idle, rsp := none }

/-- R180, R182: `rst` in any state, inside a command or with a response pending, gives the reset state, at the command level
and between micro-steps; the engine is then ready and nothing is pending. That the inputs still to come are kept is no part of
those rules: it is the model's choice (log 3). -/
def Obligations.HardwareResetAlwaysWins : Prop :=
  ∀ s : State, s.input.rst = true →
    ∃ t : State, step s = .next t ∧ microStep s = .next t ∧
      (∀ i < 25, laneAt t.lanes i = 0#64) ∧ t.cursor = 0#8 ∧ t.mode.code = 0#2 ∧ t.valid = false ∧
      t.phase = .idle ∧ t.rnd = 0 ∧ t.after = .toIdle ∧ t.rsp = none ∧ t.cmdReady = true ∧
      t.inputs = s.inputs.tail

/-- R186, R61, V6: over any number of steps in which the host neither takes the response nor resets, whatever it does
afterwards, the response and the whole engine stay as they are, whatever words it shows; the step at which it takes the
response removes the response only. -/
def Obligations.ResponseIsHeldUntilTaken : Prop :=
  ∀ (s : State) (r : Response), s.rsp = some r →
    (∀ n, (∀ i ∈ s.inputs.take n, i.rst = false ∧ i.rspReady = false) →
      Host.Core.run Sys2Proof.core n s = .next { s with inputs := s.inputs.drop n }) ∧
    (s.input.rst = false → s.input.rspReady = true →
      step s = .next { s with rsp := none, inputs := s.inputs.tail })

/-- R185, V5: a word shown while `cmd_ready` is 0 has not been sent: the step is the one with no word shown. -/
def Obligations.UnreadyEngineTakesNoWord : Prop :=
  ∀ (s : State) (i : PortInput) (rest : List PortInput), s.inputs = i :: rest → s.cmdReady = false →
    step s = step { s with inputs := { i with cmd := none } :: rest } ∧
    microStep s = microStep { s with inputs := { i with cmd := none } :: rest }

/-- R61, R149: an idle engine with no response pending, no reset and no word shown waits: a step and a micro-step use up
this step's input and change nothing else. -/
def Obligations.IdleEngineWaitsForAWord : Prop :=
  ∀ s : State, s.phase = .idle → s.rsp = none → s.input.rst = false → s.input.cmd = none →
    step s = .next { s with inputs := s.inputs.tail } ∧ microStep s = .next { s with inputs := s.inputs.tail }

/-! ### Invariants (10_state.md R34) -/

/-- The state after hardware reset meets the invariant (R34, R180). That its lanes, seen as a list of cells, are in the
canonical form `Memory.wf` is about the model's own view of the byte space, a choice (log 8). -/
def Obligations.ResetMeetsTheInvariant : Prop :=
  State.reset.Inv ∧ State.reset.IdleInv ∧ Memory.wf (memCells State.reset.lanes) = true

/-- R34: every step, from any state that meets the invariant, leads to one that does; for PHASE = IDLE the invariant is R34
(a), (b), (c). -/
def Obligations.StepKeepsTheInvariant : Prop :=
  ∀ s t : State, s.Inv → step s = .next t → t.Inv

/-- The same for the machine of micro-steps, inside a command too. -/
def Obligations.MicroStepKeepsTheInvariant : Prop :=
  ∀ s t : State, s.Inv → microStep s = .next t → t.Inv

/-- R164: from any state that meets the invariant neither machine stops: there is no failure but the three errors. -/
def Obligations.InvariantNeverStops : Prop :=
  ∀ s : State, s.Inv → Continues (step s) ∧ Continues (microStep s)

/-! ### The sequencer (43_sequencer.md) -/

/-- R147: from every architectural state of an idle engine and for every word, the micro-steps from ACCEPT until PHASE is
IDLE again give the state and the response of the command level. The whole states are equal, AFTER too, of which R147 does
not speak: its value at the command level is the model's deduction (log 13). -/
def Obligations.SequencerAgreesWithCommandLevel : Prop :=
  ∀ (s : State) (w : CmdWord), s.IdleInv → runWordMicro w s = runWord w s

/-- R140, R145, R146, R149: in ROUNDS and SQUEEZE, with no reset, a step of either machine is the one enabled micro-step,
whatever word the host shows and whatever it drives on `rsp_ready`; and what that micro-step is in each case. -/
def Obligations.EnabledMicroStepRuns : Prop :=
  ∀ s : State, s.rsp = none → s.input.rst = false →
    (s.phase ≠ .idle → step s = microStep s ∧ microStep s = .next (engineStep { s with inputs := s.inputs.tail })) ∧
    (s.phase = .rounds → s.rnd.val < 23 →
      microStep s = .next { s with
        lanes := keccakRound s.lanes s.rnd, rnd := s.rnd + 1, inputs := s.inputs.tail }) ∧
    (s.phase = .rounds → s.rnd = 23 → s.after = .toIdle →
      microStep s = .next { s with
        lanes := keccakRound s.lanes 23, rnd := 0, cursor := 0#8, phase := .idle, rsp := some (.ofPair .ok [])
        inputs := s.inputs.tail }) ∧
    (s.phase = .rounds → s.rnd = 23 → s.after = .toSqueeze →
      microStep s = .next { s with
        lanes := keccakRound s.lanes 23, rnd := 0, cursor := 0#8, phase := .squeeze, inputs := s.inputs.tail }) ∧
    (s.phase = .squeeze →
      microStep s = .next { s with
        lanes := zeroLanes, phase := .idle, rsp := some (.ofPair .ok (memRead s.lanes 0 s.mode.ob))
        inputs := s.inputs.tail })

/-- R148: with the host showing one word and nothing else, the machine of micro-steps is inside the command for every count
of steps below `microSteps` and then stands where the command level's one step leads; the count is 1, 25 or 26. The
states reached are equal in AFTER too, which is the model's deduction (log 13). -/
def Obligations.MicroStepCount : Prop :=
  ∀ (s : State) (w : CmdWord), s.IdleInv → s.rsp = none → s.inputs = [.send w] →
    microSteps w s ∈ [1, 25, 26] ∧
    (∀ k, 1 ≤ k → k < microSteps w s →
      ∃ u, Host.Core.run microCore k s = .next u ∧ u.phase ≠ .idle ∧ u.rsp = none) ∧
    Host.Core.run microCore (microSteps w s) s = step s

/-- R148: a message of n bytes in one session, from CURSOR = 0, costs n + 24 * (n div RATE) + 26 micro-steps from its first
ABSORB through FINISH. -/
def Obligations.MessageMicroStepCost : Prop :=
  ∀ (s : State) (msg : List Byte), s.valid = true → s.cursor = 0#8 →
    sequenceMicroSteps (absorbWords msg ++ [encode .finish]) s = msg.length + 24 * (msg.length / s.rate) + 26

/-- R149: an accepted command reaches its response: from ROUNDS or SQUEEZE, within 25 steps of either machine, whatever the
host drives in them but `rst`. Until then the command is in the engine and no response is pending. -/
def Obligations.AcceptedCommandReachesItsResponse : Prop :=
  ∀ s : State, s.Inv → s.phase ≠ .idle →
    ∃ k ≤ 25, (engineStep^[k] s).phase = .idle ∧ (engineStep^[k] s).rsp.isSome = true ∧
      (∀ j < k, (engineStep^[j] s).phase ≠ .idle ∧ (engineStep^[j] s).rsp = none) ∧
      ∀ j ≤ k, (∀ i ∈ s.inputs.take j, i.rst = false) →
        Host.Core.run microCore j s = .next { engineStep^[j] s with inputs := s.inputs.drop j } ∧
        Host.Core.run Sys2Proof.core j s = .next { engineStep^[j] s with inputs := s.inputs.drop j }

/-- R131, R189: control does not depend on data. Two states that agree on everything but lanes, the contents of a response
and the message bytes still to come, step to states that agree in the same way, micro-step by micro-step and command by
command. -/
def Obligations.ControlIsDataIndependent : Prop :=
  ∀ s t : State, s.control = t.control →
    ((∃ s' t', microStep s = .next s' ∧ microStep t = .next t' ∧ s'.control = t'.control) ∨
      ∃ f, microStep s = .fault f ∧ microStep t = .fault f) ∧
    ((∃ s' t', step s = .next s' ∧ step t = .next t' ∧ s'.control = t'.control) ∨
      ∃ f, step s = .fault f ∧ step t = .fault f)

/-- R188: the latency bookkeeping goes with the micro-step counts of R148. -/
def Obligations.LatencyFollowsMicroSteps : Prop :=
  ∀ (w : CmdWord) (s : State),
    (microSteps w s = 1 → latency w s = Config.tAccept + Config.tRsp) ∧
    (microSteps w s = 25 → latency w s = Config.tAccept + 24 * Config.tRound + Config.tRsp) ∧
    (microSteps w s = 26 → latency w s = Config.tAccept + 24 * Config.tRound + Config.tSqueeze + Config.tRsp)
end

