-- ==== Sys2Proof/Laws/Decode.lean ====
section
/-! SUPPORT. A command word is its two fields, and the decoder by cases on them (30_encoding.md R62, R66). -/

namespace Sys2Proof

theorem word_eq_op_append_arg (w : CmdWord) : opField w ++ argField w = w := by
  apply BitVec.eq_of_getLsbD_eq
  intro i hi
  rw [BitVec.getLsbD_append, opField, argField, BitVec.getLsbD_extractLsb', BitVec.getLsbD_extractLsb']
  by_cases h : i < 12
  · simp [h]
  · simp only [h, if_false]
    rw [show 12 + (i - 12) = i by omega, decide_eq_true (by omega : i - 12 < 4), Bool.true_and]

theorem argField_append (op : BitVec 4) (arg : BitVec 12) : argField (op ++ arg) = arg := by
  apply BitVec.eq_of_getLsbD_eq
  intro i hi
  rw [argField, BitVec.getLsbD_extractLsb', BitVec.getLsbD_append]
  simp [hi]

/-- `op` is the word's upper four bits as a number, `arg` the rest. -/
theorem opField_toNat (w : CmdWord) : (opField w).toNat = w.toNat / 4096 := by
  have := w.isLt
  rw [opField, BitVec.extractLsb'_toNat, Nat.shiftRight_eq_div_pow]
  omega

theorem argField_toNat (w : CmdWord) : (argField w).toNat = w.toNat % 4096 := by
  rw [argField, BitVec.extractLsb'_toNat, Nat.shiftRight_zero]

/-- The five lines of R66. -/
theorem decode_cases (w : CmdWord) :
    (opField w = 0x1#4 ∧ decode w = .ok (.init (argField w).toNat)) ∨
      (opField w = 0x2#4 ∧ (argField w).extractLsb' 8 4 = 0#4 ∧
        decode w = .ok (.absorb ((argField w).extractLsb' 0 8))) ∨
      (opField w = 0x3#4 ∧ argField w = 0#12 ∧ decode w = .ok .finish) ∨
      (opField w = 0x4#4 ∧ argField w = 0#12 ∧ decode w = .ok .reset) ∨
      ∃ e, decode w = .error e := by
  simp only [decode]
  split
  · exact .inl ⟨‹_›, rfl⟩
  split
  · split
    · exact .inr (.inl ⟨‹_›, ‹_›, rfl⟩)
    · exact .inr (.inr (.inr (.inr ⟨_, rfl⟩)))
  split
  · split
    · exact .inr (.inr (.inl ⟨‹_›, ‹_›, rfl⟩))
    · exact .inr (.inr (.inr (.inr ⟨_, rfl⟩)))
  split
  · split
    · exact .inr (.inr (.inr (.inl ⟨‹_›, ‹_›, rfl⟩)))
    · exact .inr (.inr (.inr (.inr ⟨_, rfl⟩)))
  · exact .inr (.inr (.inr (.inr ⟨_, rfl⟩)))

end Sys2Proof
end

