-- ==== Sys2Proof/Laws/Operands.lean ====
section
/-! SUPPORT. The values of OB and RATE, the accepted sizes, and where a placed byte lands in a lane. -/

namespace Sys2Proof.Machine

theorem Mode.rate_le (m : Mode) : m.rate ≤ 144 := by cases m <;> decide

theorem Mode.rate_ge (m : Mode) : 72 ≤ m.rate := by cases m <;> decide

theorem Mode.ob_le (m : Mode) : m.ob ≤ 64 := by cases m <;> decide

theorem Mode.ob_lt_rate (m : Mode) : m.ob < m.rate := by cases m <;> decide

/-- The rate boundary falls on a lane boundary (R6). -/
theorem Mode.rate_eq_lanes (m : Mode) : m.rate = 8 * (m.rate / 8) := by cases m <;> decide

@[simp] theorem Mode.ofSize_size (m : Mode) : Mode.ofSize m.size = some m := by cases m <;> rfl

theorem Mode.ofSize_eq_some {size : Nat} {m : Mode} (h : Mode.ofSize size = some m) : size = m.size := by
  unfold Mode.ofSize at h
  split at h
  · cases h; assumption
  split at h
  · cases h; assumption
  split at h
  · cases h; assumption
  split at h
  · cases h; assumption
  · cases h

/-- A size is rejected exactly when it is none of the four (R121). -/
theorem Mode.ofSize_eq_none_iff (size : Nat) : Mode.ofSize size = none ↔ ∀ m : Mode, size ≠ m.size := by
  constructor
  · rintro h m rfl
    simp at h
  · intro h
    cases hm : Mode.ofSize size with
    | none => rfl
    | some m => exact absurd (Mode.ofSize_eq_some hm) (h m)

theorem getLsbD_placeByte (b : Byte) (k i : Nat) :
    (placeByte b k).getLsbD i = (decide (i < 64) && decide (8 * k ≤ i) && b.getLsbD (i - 8 * k)) := by
  simp only [placeByte, BitVec.getLsbD_shiftLeft, BitVec.getLsbD_setWidth]
  by_cases h : i < 8 * k
  · simp [h, Nat.not_le.mpr h]
  · by_cases h64 : i < 64
    · have : i - 8 * k < 64 := by omega
      simp [h, h64, this, Nat.not_lt.mp h]
    · simp [h64]

@[simp] theorem placeByte_zero (k : Nat) : placeByte 0#8 k = 0#64 := by simp [placeByte]

theorem placeByte_xor (a b : Byte) (k : Nat) : placeByte (a ^^^ b) k = placeByte a k ^^^ placeByte b k := by
  apply BitVec.eq_of_getLsbD_eq
  intro i hi
  simp only [BitVec.getLsbD_xor, getLsbD_placeByte]
  cases decide (i < 64) <;> cases decide (8 * k ≤ i) <;> simp

theorem laneByte_xor (v w : Lane) (k : Nat) : laneByte (v ^^^ w) k = laneByte v k ^^^ laneByte w k := by
  apply BitVec.eq_of_getLsbD_eq
  intro i hi
  simp [laneByte, hi]

/-- A placed byte is read back at its own position and leaves 0 at the others. -/
theorem laneByte_placeByte (b : Byte) {k j : Nat} (hk : k < 8) (hj : j < 8) :
    laneByte (placeByte b k) j = if j = k then b else 0#8 := by
  apply BitVec.eq_of_getLsbD_eq
  intro i hi
  simp only [laneByte, BitVec.getLsbD_extractLsb', hi, decide_true, Bool.true_and, getLsbD_placeByte]
  have h64 : 8 * j + i < 64 := by omega
  by_cases h : j = k
  · subst h
    simp [h64]
  · simp only [h, if_false, BitVec.getLsbD_zero, Bool.and_eq_false_iff, decide_eq_false_iff_not]
    rcases Nat.lt_or_gt_of_ne h with h | h
    · left; right; omega
    · right
      exact BitVec.getLsbD_of_ge _ _ (by omega)

end Sys2Proof.Machine
end

