-- ==== Sys2Proof/Laws/Ops.lean ====
section
/-! SUPPORT. Lanes and bytes: reading after writing, the XOR of a byte, the list of cells, packed responses. -/

namespace Sys2Proof.Machine

theorem laneAt_eq (S : Lanes) {i : Nat} (h : i < 25) : laneAt S i = S[i] := by
  have h' : i < S.toList.length := by simpa using h
  simp only [laneAt, List.getD_eq_getElem _ _ h', Vector.getElem_toList]

theorem laneAt_of_le (S : Lanes) {i : Nat} (h : 25 ≤ i) : laneAt S i = 0#64 := by
  have h' : S.toList.length ≤ i := by simpa using h
  simp only [laneAt, List.getD_eq_default _ _ h']

theorem lanes_ext {S T : Lanes} (h : ∀ i < 25, laneAt S i = laneAt T i) : S = T := by
  ext1 i hi
  have := h i hi
  rwa [laneAt_eq S hi, laneAt_eq T hi] at this

@[simp] theorem laneAt_zeroLanes (i : Nat) : laneAt zeroLanes i = 0#64 := by
  by_cases h : i < 25
  · simp [laneAt_eq _ h, zeroLanes]
  · exact laneAt_of_le _ (by omega)

theorem laneAt_setIfInBounds (S : Lanes) {i : Nat} (hi : i < 25) (v : Lane) (j : Nat) :
    laneAt (S.setIfInBounds i v) j = if j = i then v else laneAt S j := by
  by_cases hj : j < 25
  · rw [laneAt_eq _ hj, Vector.getElem_setIfInBounds]
    by_cases h : j = i
    · simp [h]
    · rw [laneAt_eq _ hj]; simp [h, Ne.symm h]
  · have : j ≠ i := by omega
    simp [laneAt_of_le _ (Nat.not_lt.mp hj), this]

/-- The lane form of MemXor (R101). -/
theorem laneAt_memXor (S : Lanes) {b : Nat} (hb : b < 200) (v : Byte) (i : Nat) :
    laneAt (memXor S b v) i = if i = b / 8 then laneAt S (b / 8) ^^^ placeByte v (b % 8) else laneAt S i :=
  laneAt_setIfInBounds S (by omega) _ i

/-- The byte form of MemXor: the byte at its offset is XORed, every other byte of the space is left (R12). -/
theorem byteAt_memXor (S : Lanes) {b : Nat} (hb : b < 200) (v : Byte) (a : Nat) :
    byteAt (memXor S b v) a = if a = b then byteAt S b ^^^ v else byteAt S a := by
  unfold byteAt
  rw [laneAt_memXor S hb]
  by_cases hl : a / 8 = b / 8
  · rw [if_pos hl, laneByte_xor, laneByte_placeByte v (Nat.mod_lt _ (by omega)) (Nat.mod_lt _ (by omega)), hl]
    by_cases hm : a % 8 = b % 8
    · have : a = b := by omega
      simp [this]
    · have : a ≠ b := by rintro rfl; exact hm rfl
      simp [hm, this]
  · have : a ≠ b := by rintro rfl; exact hl rfl
    simp [hl, this]

/-- XORing a zero byte changes nothing (R104). -/
@[simp] theorem memXor_zero (S : Lanes) (b : Nat) : memXor S b 0#8 = S := by
  apply lanes_ext
  intro i hi
  by_cases hb : b < 200
  · rw [laneAt_memXor S hb]; split
    · subst_vars; simp
    · rfl
  · have : 25 ≤ b / 8 := by omega
    rw [memXor, Vector.setIfInBounds_eq_of_size_le this]

theorem length_memRead (S : Lanes) (b n : Nat) : (memRead S b n).length = n := by simp [memRead]

theorem getElem_memRead (S : Lanes) (b n i : Nat) (h : i < (memRead S b n).length) :
    (memRead S b n)[i] = byteAt S (b + i) := by simp [memRead]

/-! ### Cells -/

theorem pairwise_cells (f : Nat → Byte) (n : Nat) :
    ((List.range n).filterMap fun b => if f b = 0#8 then none else some ((b, f b) : Host.Cell)).Pairwise
      fun c d => c.1 < d.1 := by
  rw [List.pairwise_filterMap]
  refine List.pairwise_lt_range.imp ?_
  intro a b hab c hc d hd
  split at hc <;> simp at hc
  split at hd <;> simp at hd
  subst hc; subst hd
  exact hab

/-- The cells of any lanes are in canonical form, so every memory operation keeps it, and the reset memory has it. -/
theorem memCells_wf (S : Lanes) : Memory.wf (memCells S) = true := by
  simp only [Memory.wf, Bool.and_eq_true, decide_eq_true_eq, List.all_eq_true]
  refine ⟨pairwise_cells (byteAt S) 200, ?_⟩
  intro c hc
  simp only [memCells, List.mem_filterMap, List.mem_range] at hc
  obtain ⟨b, hb, h⟩ := hc
  split at h
  · cases h
  · cases h; simpa [hb] using ‹_›

/-- The reset memory lists nothing. -/
theorem memCells_zeroLanes : memCells zeroLanes = [] := by
  simp only [memCells, List.filterMap_eq_nil_iff]
  intro b _
  have : byteAt zeroLanes b = 0#8 := by simp [byteAt, laneByte]
  simp [this]

theorem lookup_cells (f : Nat → Byte) (l : List Nat) {b : Nat} :
    ((l.filterMap fun b => if f b = 0#8 then none else some ((b, f b) : Host.Cell)).lookup b).getD 0#8 =
      if b ∈ l then f b else 0#8 := by
  induction l with
  | nil => simp
  | cons a l ih =>
    by_cases hf : f a = 0#8
    · rw [List.filterMap_cons, if_pos hf, ih]
      by_cases hb : b = a
      · subst hb; simp [hf]
      · simp [hb]
    · rw [List.filterMap_cons, if_neg hf, List.lookup_cons]
      by_cases hb : b = a
      · subst hb; simp
      · have : (b == a) = false := by simpa using hb
        rw [this]
        simp [ih, hb]

/-- Reading a byte from the list of cells is reading it from the lanes. -/
theorem cellAt_memCells (S : Lanes) {b : Nat} (h : b < 200) : cellAt (memCells S) b = byteAt S b := by
  simp [cellAt, memCells, lookup_cells, h]

/-! ### Responses -/

theorem getLsbD_packBytes (bytes : List Byte) (i : Nat) :
    (packBytes bytes).getLsbD i = (decide (i < 512) && (bytes.getD (i / 8) 0#8).getLsbD (i % 8)) := by
  induction bytes generalizing i with
  | nil => simp [packBytes]
  | cons x xs ih =>
    simp only [packBytes, BitVec.getLsbD_or, BitVec.getLsbD_setWidth, BitVec.getLsbD_shiftLeft, ih]
    by_cases h512 : i < 512
    · by_cases h : i < 8
      · have h0 : i / 8 = 0 := by omega
        have h1 : i % 8 = i := by omega
        simp [h, h512, h0, h1]
      · have hx : x.getLsbD i = false := BitVec.getLsbD_of_ge _ _ (by omega)
        have h0 : i / 8 = (i - 8) / 8 + 1 := by omega
        have h1 : (i - 8) % 8 = i % 8 := by omega
        have h2 : i - 8 < 512 := by omega
        simp [h, h512, hx, h0, h1, h2]
    · have hx : x.getLsbD i = false := BitVec.getLsbD_of_ge _ _ (by omega)
      simp [h512, hx]

/-- Byte i of the payload stands in bits `[8*i+7 : 8*i]` (R69). -/
theorem extract_packBytes (bytes : List Byte) {i : Nat} (h : i < 64) :
    (packBytes bytes).extractLsb' (8 * i) 8 = bytes.getD i 0#8 := by
  apply BitVec.eq_of_getLsbD_eq
  intro j hj
  have h0 : (8 * i + j) / 8 = i := by omega
  have h1 : (8 * i + j) % 8 = j := by omega
  have h2 : 8 * i + j < 512 := by omega
  rw [BitVec.getLsbD_extractLsb', getLsbD_packBytes, h0, h1]
  simp only [hj, h2, decide_true, Bool.true_and]

@[simp] theorem ofPair_status (st : Status) (p : List Byte) : (Response.ofPair st p).status = st := rfl
@[simp] theorem ofPair_data (st : Status) (p : List Byte) : (Response.ofPair st p).data = packBytes p := rfl

theorem ofPair_len (st : Status) (p : List Byte) (h : p.length ≤ 64) :
    (Response.ofPair st p).len.toNat = p.length := by
  simp only [Response.ofPair, BitVec.toNat_ofNat]
  omega

/-- Every data bit at or above 8 * length is 0 (R69). -/
theorem packBytes_high (bytes : List Byte) : packBytes bytes >>> (8 * bytes.length) = 0#512 := by
  apply BitVec.eq_of_getLsbD_eq
  intro i hi
  have : bytes.length ≤ (8 * bytes.length + i) / 8 := by omega
  rw [BitVec.getLsbD_ushiftRight, getLsbD_packBytes, List.getD_eq_default _ _ this]
  simp only [BitVec.getLsbD_zero, Bool.and_false]

end Sys2Proof.Machine
end

