-- ==== Sys2Proof/Laws/Permutation.lean ====
section
/-! SUPPORT. Reading the lanes a step of the permutation builds. -/

namespace Sys2Proof.Machine

/-- The lane at (x, y) of the lanes built from `f` is `f x y`. -/
theorem laneXY_lanesOf (f : Nat → Nat → Lane) {x y : Nat} (hx : x < 5) (hy : y < 5) :
    laneXY (lanesOf f) x y = f x y := by
  have : x = 0 ∨ x = 1 ∨ x = 2 ∨ x = 3 ∨ x = 4 := by omega
  have : y = 0 ∨ y = 1 ∨ y = 2 ∨ y = 3 ∨ y = 4 := by omega
  rcases ‹x = 0 ∨ _› with rfl | rfl | rfl | rfl | rfl <;>
    rcases ‹y = 0 ∨ _› with rfl | rfl | rfl | rfl | rfl <;> rfl

/-- Two states with the same lane at every (x, y) are equal. -/
theorem lanes_ext_xy {S T : Lanes} (h : ∀ x < 5, ∀ y < 5, laneXY S x y = laneXY T x y) : S = T := by
  apply lanes_ext
  intro i hi
  have := h (i % 5) (by omega) (i / 5) (by omega)
  have e : i % 5 % 5 + 5 * (i / 5) = i := by omega
  simpa only [laneXY, e] using this

/-- Column numbers are taken modulo 5 (R10). -/
@[simp] theorem laneXY_mod (S : Lanes) (x y : Nat) : laneXY S (x % 5) y = laneXY S x y := by
  simp only [laneXY, Nat.mod_mod]

theorem permute_eq_foldl (S : Lanes) : permute S = (List.finRange 24).foldl keccakRound S := rfl

end Sys2Proof.Machine
end

