-- ==== Sys2Proof/Laws/State.lean ====
section
/-! SUPPORT. What each update of the state leaves in each field, so that no proof unfolds a record update. -/

namespace Sys2Proof.Machine

/-! ### zeroSession -/

@[simp] theorem zeroSession_lanes (s : State) : s.zeroSession.lanes = zeroLanes := rfl
@[simp] theorem zeroSession_cursor (s : State) : s.zeroSession.cursor = 0#8 := rfl
@[simp] theorem zeroSession_mode (s : State) : s.zeroSession.mode = s.mode := rfl
@[simp] theorem zeroSession_valid (s : State) : s.zeroSession.valid = s.valid := rfl
@[simp] theorem zeroSession_phase (s : State) : s.zeroSession.phase = s.phase := rfl
@[simp] theorem zeroSession_rnd (s : State) : s.zeroSession.rnd = s.rnd := rfl
@[simp] theorem zeroSession_after (s : State) : s.zeroSession.after = s.after := rfl
@[simp] theorem zeroSession_rsp (s : State) : s.zeroSession.rsp = s.rsp := rfl
@[simp] theorem zeroSession_inputs (s : State) : s.zeroSession.inputs = s.inputs := rfl

/-! ### configure -/

@[simp] theorem configure_lanes (s : State) (m : Mode) : (s.configure m).lanes = s.lanes := rfl
@[simp] theorem configure_cursor (s : State) (m : Mode) : (s.configure m).cursor = s.cursor := rfl
@[simp] theorem configure_mode (s : State) (m : Mode) : (s.configure m).mode = m := rfl
@[simp] theorem configure_valid (s : State) (m : Mode) : (s.configure m).valid = true := rfl
@[simp] theorem configure_phase (s : State) (m : Mode) : (s.configure m).phase = s.phase := rfl
@[simp] theorem configure_rnd (s : State) (m : Mode) : (s.configure m).rnd = s.rnd := rfl
@[simp] theorem configure_after (s : State) (m : Mode) : (s.configure m).after = s.after := rfl
@[simp] theorem configure_rsp (s : State) (m : Mode) : (s.configure m).rsp = s.rsp := rfl
@[simp] theorem configure_inputs (s : State) (m : Mode) : (s.configure m).inputs = s.inputs := rfl

/-! ### unconfigure -/

@[simp] theorem unconfigure_lanes (s : State) : s.unconfigure.lanes = s.lanes := rfl
@[simp] theorem unconfigure_cursor (s : State) : s.unconfigure.cursor = s.cursor := rfl
@[simp] theorem unconfigure_mode (s : State) : s.unconfigure.mode = .m224 := rfl
@[simp] theorem unconfigure_valid (s : State) : s.unconfigure.valid = false := rfl
@[simp] theorem unconfigure_phase (s : State) : s.unconfigure.phase = s.phase := rfl
@[simp] theorem unconfigure_rnd (s : State) : s.unconfigure.rnd = s.rnd := rfl
@[simp] theorem unconfigure_after (s : State) : s.unconfigure.after = s.after := rfl
@[simp] theorem unconfigure_rsp (s : State) : s.unconfigure.rsp = s.rsp := rfl
@[simp] theorem unconfigure_inputs (s : State) : s.unconfigure.inputs = s.inputs := rfl

/-! ### respond -/

@[simp] theorem respond_lanes (st : Status) (p : List Byte) (s : State) : (respond st p s).lanes = s.lanes := rfl
@[simp] theorem respond_cursor (st : Status) (p : List Byte) (s : State) : (respond st p s).cursor = s.cursor := rfl
@[simp] theorem respond_mode (st : Status) (p : List Byte) (s : State) : (respond st p s).mode = s.mode := rfl
@[simp] theorem respond_valid (st : Status) (p : List Byte) (s : State) : (respond st p s).valid = s.valid := rfl
@[simp] theorem respond_phase (st : Status) (p : List Byte) (s : State) : (respond st p s).phase = s.phase := rfl
@[simp] theorem respond_rnd (st : Status) (p : List Byte) (s : State) : (respond st p s).rnd = s.rnd := rfl
@[simp] theorem respond_after (st : Status) (p : List Byte) (s : State) : (respond st p s).after = s.after := rfl
@[simp] theorem respond_rsp (st : Status) (p : List Byte) (s : State) : (respond st p s).rsp = some (.ofPair st p) := rfl
@[simp] theorem respond_inputs (st : Status) (p : List Byte) (s : State) : (respond st p s).inputs = s.inputs := rfl

/-! ### raiseError -/

@[simp] theorem raiseError_lanes (e : Error) (s : State) : (raiseError e s).lanes = s.lanes := rfl
@[simp] theorem raiseError_cursor (e : Error) (s : State) : (raiseError e s).cursor = s.cursor := rfl
@[simp] theorem raiseError_mode (e : Error) (s : State) : (raiseError e s).mode = s.mode := rfl
@[simp] theorem raiseError_valid (e : Error) (s : State) : (raiseError e s).valid = s.valid := rfl
@[simp] theorem raiseError_phase (e : Error) (s : State) : (raiseError e s).phase = s.phase := rfl
@[simp] theorem raiseError_rnd (e : Error) (s : State) : (raiseError e s).rnd = s.rnd := rfl
@[simp] theorem raiseError_after (e : Error) (s : State) : (raiseError e s).after = s.after := rfl
@[simp] theorem raiseError_rsp (e : Error) (s : State) : (raiseError e s).rsp = some (.ofPair e.status []) := rfl
@[simp] theorem raiseError_inputs (e : Error) (s : State) : (raiseError e s).inputs = s.inputs := rfl

/-! ### hardwareReset -/

@[simp] theorem hardwareReset_lanes (s : State) : (hardwareReset s).lanes = zeroLanes := rfl
@[simp] theorem hardwareReset_cursor (s : State) : (hardwareReset s).cursor = 0#8 := rfl
@[simp] theorem hardwareReset_mode (s : State) : (hardwareReset s).mode = .m224 := rfl
@[simp] theorem hardwareReset_valid (s : State) : (hardwareReset s).valid = false := rfl
@[simp] theorem hardwareReset_phase (s : State) : (hardwareReset s).phase = .idle := rfl
@[simp] theorem hardwareReset_rnd (s : State) : (hardwareReset s).rnd = 0 := rfl
@[simp] theorem hardwareReset_after (s : State) : (hardwareReset s).after = .toIdle := rfl
@[simp] theorem hardwareReset_rsp (s : State) : (hardwareReset s).rsp = none := rfl
@[simp] theorem hardwareReset_inputs (s : State) : (hardwareReset s).inputs = s.inputs := rfl

/-! ### dropInput -/

@[simp] theorem dropInput_lanes (s : State) : s.dropInput.lanes = s.lanes := rfl
@[simp] theorem dropInput_cursor (s : State) : s.dropInput.cursor = s.cursor := rfl
@[simp] theorem dropInput_mode (s : State) : s.dropInput.mode = s.mode := rfl
@[simp] theorem dropInput_valid (s : State) : s.dropInput.valid = s.valid := rfl
@[simp] theorem dropInput_phase (s : State) : s.dropInput.phase = s.phase := rfl
@[simp] theorem dropInput_rnd (s : State) : s.dropInput.rnd = s.rnd := rfl
@[simp] theorem dropInput_after (s : State) : s.dropInput.after = s.after := rfl
@[simp] theorem dropInput_rsp (s : State) : s.dropInput.rsp = s.rsp := rfl
@[simp] theorem dropInput_inputs (s : State) : s.dropInput.inputs = s.inputs.tail := rfl

/-! ### offerWord -/

@[simp] theorem offerWord_lanes (w : CmdWord) (s : State) : (offerWord w s).lanes = s.lanes := rfl
@[simp] theorem offerWord_cursor (w : CmdWord) (s : State) : (offerWord w s).cursor = s.cursor := rfl
@[simp] theorem offerWord_mode (w : CmdWord) (s : State) : (offerWord w s).mode = s.mode := rfl
@[simp] theorem offerWord_valid (w : CmdWord) (s : State) : (offerWord w s).valid = s.valid := rfl
@[simp] theorem offerWord_phase (w : CmdWord) (s : State) : (offerWord w s).phase = .idle := rfl
@[simp] theorem offerWord_rnd (w : CmdWord) (s : State) : (offerWord w s).rnd = s.rnd := rfl
@[simp] theorem offerWord_after (w : CmdWord) (s : State) : (offerWord w s).after = s.after := rfl
@[simp] theorem offerWord_rsp (w : CmdWord) (s : State) : (offerWord w s).rsp = none := rfl
@[simp] theorem offerWord_inputs (w : CmdWord) (s : State) : (offerWord w s).inputs = .send w :: s.inputs := rfl

/-! ### acceptFinish -/

@[simp] theorem acceptFinish_lanes (s : State) : (acceptFinish s).lanes = memXor (memXor s.lanes s.cursor.toNat 0x06#8) (s.rate - 1) 0x80#8 := rfl
@[simp] theorem acceptFinish_cursor (s : State) : (acceptFinish s).cursor = BitVec.ofNat 8 s.rate := rfl
@[simp] theorem acceptFinish_mode (s : State) : (acceptFinish s).mode = s.mode := rfl
@[simp] theorem acceptFinish_valid (s : State) : (acceptFinish s).valid = s.valid := rfl
@[simp] theorem acceptFinish_phase (s : State) : (acceptFinish s).phase = .rounds := rfl
@[simp] theorem acceptFinish_rnd (s : State) : (acceptFinish s).rnd = 0 := rfl
@[simp] theorem acceptFinish_after (s : State) : (acceptFinish s).after = .toSqueeze := rfl
@[simp] theorem acceptFinish_rsp (s : State) : (acceptFinish s).rsp = s.rsp := rfl
@[simp] theorem acceptFinish_inputs (s : State) : (acceptFinish s).inputs = s.inputs := rfl

/-! ### squeezeStep -/

@[simp] theorem squeezeStep_lanes (s : State) : (squeezeStep s).lanes = zeroLanes := rfl
@[simp] theorem squeezeStep_cursor (s : State) : (squeezeStep s).cursor = s.cursor := rfl
@[simp] theorem squeezeStep_mode (s : State) : (squeezeStep s).mode = s.mode := rfl
@[simp] theorem squeezeStep_valid (s : State) : (squeezeStep s).valid = s.valid := rfl
@[simp] theorem squeezeStep_phase (s : State) : (squeezeStep s).phase = .idle := rfl
@[simp] theorem squeezeStep_rnd (s : State) : (squeezeStep s).rnd = s.rnd := rfl
@[simp] theorem squeezeStep_after (s : State) : (squeezeStep s).after = s.after := rfl
@[simp] theorem squeezeStep_rsp (s : State) : (squeezeStep s).rsp = some (.ofPair .ok (squeeze s)) := rfl
@[simp] theorem squeezeStep_inputs (s : State) : (squeezeStep s).inputs = s.inputs := rfl

/-! ### views -/

@[simp] theorem zeroSession_rate (s : State) : s.zeroSession.rate = s.rate := rfl
@[simp] theorem respond_rate (st : Status) (p : List Byte) (s : State) : (respond st p s).rate = s.rate := rfl
@[simp] theorem raiseError_rate (e : Error) (s : State) : (raiseError e s).rate = s.rate := rfl
@[simp] theorem dropInput_rate (s : State) : s.dropInput.rate = s.rate := rfl
@[simp] theorem freshSession_rate (m : Mode) : (freshSession m).rate = m.rate := rfl
@[simp] theorem freshSession_cursor (m : Mode) : (freshSession m).cursor = 0#8 := rfl
@[simp] theorem freshSession_lanes (m : Mode) : (freshSession m).lanes = zeroLanes := rfl
@[simp] theorem freshSession_mode (m : Mode) : (freshSession m).mode = m := rfl
@[simp] theorem reset_lanes : State.reset.lanes = zeroLanes := rfl
@[simp] theorem reset_cursor : State.reset.cursor = 0#8 := rfl
@[simp] theorem reset_valid : State.reset.valid = false := rfl
@[simp] theorem reset_phase : State.reset.phase = .idle := rfl
@[simp] theorem reset_rsp : State.reset.rsp = none := rfl

end Sys2Proof.Machine
end

