-- ==== Sys2Proof/Laws/Sponge.lean ====
section
/-! SUPPORT. What AbsorbByte and AbsorbBytes do, case by case, and what they leave alone. -/

namespace Sys2Proof.Machine

theorem State.rate_le (s : State) : s.rate ≤ 144 := s.mode.rate_le

theorem State.rate_ge (s : State) : 72 ≤ s.rate := s.mode.rate_ge

@[simp] theorem cursorInWindow_iff (s : State) : s.cursorInWindow = true ↔ s.cursor.toNat < s.rate := by
  simp [State.cursorInWindow]

@[simp] theorem fillsWindow_iff (s : State) : s.fillsWindow = true ↔ s.cursor.toNat + 1 = s.rate := by
  simp [State.fillsWindow]

/-- CURSOR + 1 does not wrap below RATE: the register is wide enough (R28, R130). -/
theorem toNat_cursor_succ {s : State} (h : s.cursor.toNat < s.rate) :
    (s.cursor + 1#8).toNat = s.cursor.toNat + 1 := by
  have := s.rate_le
  rw [BitVec.toNat_add]
  exact Nat.mod_eq_of_lt (by simp; omega)

/-- AbsorbByte away from the boundary (R101). -/
theorem absorbByte_of_lt {s : State} (b : Byte) (h : s.cursor.toNat + 1 < s.rate) :
    absorbByte s b = { s with lanes := memXor s.lanes s.cursor.toNat b, cursor := s.cursor + 1#8 } := by
  have := toNat_cursor_succ (s := s) (by omega)
  unfold absorbByte
  simp only [this]
  exact if_neg (by omega)

/-- AbsorbByte at the boundary (R102). -/
theorem absorbByte_of_fills {s : State} (b : Byte) (h : s.cursor.toNat + 1 = s.rate) :
    absorbByte s b = { s with lanes := permute (memXor s.lanes s.cursor.toNat b), cursor := 0#8 } := by
  have := toNat_cursor_succ (s := s) (by omega)
  unfold absorbByte
  simp only [this]
  exact if_pos h

/-- AbsorbByte writes the lanes and CURSOR only (R101). -/
theorem absorbByte_eq (s : State) (b : Byte) :
    absorbByte s b = { s with lanes := (absorbByte s b).lanes, cursor := (absorbByte s b).cursor } := by
  simp only [absorbByte]
  split <;> rfl

@[simp] theorem absorbByte_mode (s : State) (b : Byte) : (absorbByte s b).mode = s.mode := by rw [absorbByte_eq]
@[simp] theorem absorbByte_valid (s : State) (b : Byte) : (absorbByte s b).valid = s.valid := by rw [absorbByte_eq]
@[simp] theorem absorbByte_phase (s : State) (b : Byte) : (absorbByte s b).phase = s.phase := by rw [absorbByte_eq]
@[simp] theorem absorbByte_rnd (s : State) (b : Byte) : (absorbByte s b).rnd = s.rnd := by rw [absorbByte_eq]
@[simp] theorem absorbByte_after (s : State) (b : Byte) : (absorbByte s b).after = s.after := by rw [absorbByte_eq]
@[simp] theorem absorbByte_rsp (s : State) (b : Byte) : (absorbByte s b).rsp = s.rsp := by rw [absorbByte_eq]
@[simp] theorem absorbByte_inputs (s : State) (b : Byte) : (absorbByte s b).inputs = s.inputs := by rw [absorbByte_eq]
@[simp] theorem absorbByte_rate (s : State) (b : Byte) : (absorbByte s b).rate = s.rate := by simp [State.rate]

/-- CURSOR after a byte, below RATE again (R28, R102). -/
theorem toNat_cursor_absorbByte {s : State} (b : Byte) (h : s.cursor.toNat < s.rate) :
    (absorbByte s b).cursor.toNat = if s.cursor.toNat + 1 = s.rate then 0 else s.cursor.toNat + 1 := by
  split
  · rw [absorbByte_of_fills b ‹_›]; rfl
  · rw [absorbByte_of_lt b (by omega)]; exact toNat_cursor_succ h

theorem cursor_absorbByte_lt {s : State} (b : Byte) (h : s.cursor.toNat < s.rate) :
    (absorbByte s b).cursor.toNat < (absorbByte s b).rate := by
  rw [toNat_cursor_absorbByte b h, absorbByte_rate]
  split <;> omega

@[simp] theorem absorbBytes_nil (s : State) : absorbBytes s [] = s := rfl

@[simp] theorem absorbBytes_cons (s : State) (b : Byte) (bs : List Byte) :
    absorbBytes s (b :: bs) = absorbBytes (absorbByte s b) bs := rfl

/-- Absorbing in two chunks is absorbing their concatenation (R103). -/
theorem absorbBytes_append (s : State) (a b : List Byte) :
    absorbBytes s (a ++ b) = absorbBytes (absorbBytes s a) b := List.foldl_append ..

/-- AbsorbBytes writes the lanes and CURSOR only (R101, R103). -/
theorem absorbBytes_eq (s : State) (bs : List Byte) :
    absorbBytes s bs = { s with lanes := (absorbBytes s bs).lanes, cursor := (absorbBytes s bs).cursor } := by
  induction bs generalizing s with
  | nil => rfl
  | cons b bs ih =>
    rw [absorbBytes_cons, ih, absorbByte_eq]

@[simp] theorem absorbBytes_mode (s : State) (bs : List Byte) : (absorbBytes s bs).mode = s.mode := by rw [absorbBytes_eq]
@[simp] theorem absorbBytes_valid (s : State) (bs : List Byte) : (absorbBytes s bs).valid = s.valid := by rw [absorbBytes_eq]
@[simp] theorem absorbBytes_phase (s : State) (bs : List Byte) : (absorbBytes s bs).phase = s.phase := by rw [absorbBytes_eq]
@[simp] theorem absorbBytes_rnd (s : State) (bs : List Byte) : (absorbBytes s bs).rnd = s.rnd := by rw [absorbBytes_eq]
@[simp] theorem absorbBytes_rsp (s : State) (bs : List Byte) : (absorbBytes s bs).rsp = s.rsp := by rw [absorbBytes_eq]
@[simp] theorem absorbBytes_inputs (s : State) (bs : List Byte) : (absorbBytes s bs).inputs = s.inputs := by rw [absorbBytes_eq]
@[simp] theorem absorbBytes_rate (s : State) (bs : List Byte) : (absorbBytes s bs).rate = s.rate := by simp [State.rate]

theorem length_squeeze (s : State) : (squeeze s).length = s.mode.ob := length_memRead ..

theorem length_padBlock (cursor rate : Nat) : (padBlock cursor rate).length = rate - cursor := by
  simp [padBlock]

end Sys2Proof.Machine
end

