-- ==== Sys2Proof/Laws/Exec.lean ====
section
/-! SUPPORT. What each command can do: one lemma per meaning that lists its cases, for later proofs to cite. -/

namespace Sys2Proof.Machine

theorem whenConfigured_of_valid {s : State} (h : s.valid = true) (run : State → Host.Outcome State Fault Refusal) :
    whenConfigured s run = run s := by simp [whenConfigured, h]

theorem whenConfigured_of_not_valid {s : State} (h : s.valid = false)
    (run : State → Host.Outcome State Fault Refusal) :
    whenConfigured s run = .next (raiseError .notConfigured s) := by simp [whenConfigured, h]

theorem whenCursorInWindow_of_lt {s : State} (h : s.cursor.toNat < s.rate) (run : State → State) :
    whenCursorInWindow s run = .next (run s) := by simp [whenCursorInWindow, h]

theorem whenCursorInWindow_of_le {s : State} (h : s.rate ≤ s.cursor.toNat) (run : State → State) :
    whenCursorInWindow s run = .fault .cursorOutsideWindow := by
  simp [whenCursorInWindow, Nat.not_lt.mpr h]

/-- The outcomes of INIT (R121). -/
theorem execInit_cases (size : Nat) (s : State) :
    (∃ m, size = m.size ∧ execInit size s = .next (respond .ok [] (s.zeroSession.configure m))) ∨
      ((∀ m : Mode, size ≠ m.size) ∧
        execInit size s = .next (raiseError .unsupportedDigestSize s.zeroSession.unconfigure)) := by
  cases h : Mode.ofSize size with
  | some m => exact .inl ⟨m, Mode.ofSize_eq_some h, by simp [execInit, h]⟩
  | none => exact .inr ⟨(Mode.ofSize_eq_none_iff size).mp h, by simp [execInit, h]⟩

/-- A command that needs a session and then CURSOR in the window has one of three outcomes (R120, R162, log 5). -/
theorem whenConfigured_cases (s : State) (run : State → State) :
    (s.valid = false ∧ whenConfigured s (whenCursorInWindow · run) = .next (raiseError .notConfigured s)) ∨
      (s.valid = true ∧ s.cursor.toNat < s.rate ∧ whenConfigured s (whenCursorInWindow · run) = .next (run s)) ∨
      (s.valid = true ∧ s.rate ≤ s.cursor.toNat ∧
        whenConfigured s (whenCursorInWindow · run) = .fault .cursorOutsideWindow) := by
  cases hv : s.valid with
  | false => exact .inl ⟨rfl, whenConfigured_of_not_valid hv _⟩
  | true =>
    rw [whenConfigured_of_valid hv]
    rcases Nat.lt_or_ge s.cursor.toNat s.rate with h | h
    · exact .inr (.inl ⟨rfl, h, whenCursorInWindow_of_lt h _⟩)
    · exact .inr (.inr ⟨rfl, h, whenCursorInWindow_of_le h _⟩)

/-- The outcomes of ABSORB (R122). -/
theorem execAbsorb_cases (b : Byte) (s : State) :
    (s.valid = false ∧ execAbsorb b s = .next (raiseError .notConfigured s)) ∨
      (s.valid = true ∧ s.cursor.toNat < s.rate ∧
        execAbsorb b s = .next (respond .ok [] (s.noteAbsorb (absorbByte s b)))) ∨
      (s.valid = true ∧ s.rate ≤ s.cursor.toNat ∧ execAbsorb b s = .fault .cursorOutsideWindow) :=
  whenConfigured_cases s fun s => respond .ok [] (s.noteAbsorb (absorbByte s b))

/-- The outcomes of FINISH (R123). -/
theorem execFinish_cases (s : State) :
    (s.valid = false ∧ execFinish s = .next (raiseError .notConfigured s)) ∨
      (s.valid = true ∧ s.cursor.toNat < s.rate ∧
        execFinish s =
          .next (respond .ok (squeeze (absorbPad s)) { (absorbPad s).zeroSession with after := .toSqueeze })) ∨
      (s.valid = true ∧ s.rate ≤ s.cursor.toNat ∧ execFinish s = .fault .cursorOutsideWindow) :=
  whenConfigured_cases s fun s =>
    respond .ok (squeeze (absorbPad s)) { (absorbPad s).zeroSession with after := .toSqueeze }

/-- The outcomes of RESET (R124). -/
theorem execReset_cases (s : State) :
    (s.valid = false ∧ execReset s = .next (raiseError .notConfigured s)) ∨
      (s.valid = true ∧ execReset s = .next (respond .ok [] s.zeroSession)) := by
  cases hv : s.valid with
  | false => exact .inl ⟨rfl, whenConfigured_of_not_valid hv _⟩
  | true => exact .inr ⟨rfl, whenConfigured_of_valid hv _⟩

@[simp] theorem exec_init (size : Nat) (s : State) : exec (.init size) s = execInit size s := rfl
@[simp] theorem exec_absorb (b : Byte) (s : State) : exec (.absorb b) s = execAbsorb b s := rfl
@[simp] theorem exec_finish (s : State) : exec .finish s = execFinish s := rfl
@[simp] theorem exec_reset (s : State) : exec .reset s = execReset s := rfl

theorem runWord_of_ok {w : CmdWord} {i : Instr} (h : decode w = .ok i) (s : State) : runWord w s = exec i s := by
  simp [runWord, h]

theorem runWord_of_error {w : CmdWord} {e : DecodeError} (h : decode w = .error e) (s : State) :
    runWord w s = .next (raiseError .illegalCommand s) := by simp [runWord, h]

end Sys2Proof.Machine
end

