-- ==== Sys2Proof/Laws/PerInstr.lean ====
section
/-! SUPPORT. A property of every instruction as syntax, one lemma per constructor: its command word matches its own row of the
opcode map and no other (30_encoding.md R63). -/

namespace Sys2Proof.Laws.RowMatch

/-- A well-formed instruction's word is accepted by the row of its mnemonic and by no other row. -/
def Statement (i : Instr) : Prop :=
  i.wellFormed = true → ∀ r ∈ opcodeRows, r.accepts (encode i) = (r.mnemonic == i.mnemonic)

/-- Each row's mask holds all four bits of `op`, so a row with another `op` in its match accepts no word with this one. -/
theorem accepts_eq_false {r : OpcodeRow} {w : CmdWord} (hmask : r.mask.extractLsb' 12 4 = 0xF#4)
    (hop : opField w ≠ r.matchBits.extractLsb' 12 4) : r.accepts w = false := by
  simp only [OpcodeRow.accepts, beq_eq_false_iff_ne]
  intro h
  apply hop
  have : (w &&& r.mask).extractLsb' 12 4 = r.matchBits.extractLsb' 12 4 := by rw [h]
  rw [← this, BitVec.extractLsb'_and, hmask]
  exact (BitVec.and_allOnes (x := opField w)).symm

theorem opField_append (op : BitVec 4) (arg : BitVec 12) : opField (op ++ arg) = op := by
  apply BitVec.eq_of_getLsbD_eq
  intro i hi
  rw [opField, BitVec.getLsbD_extractLsb', BitVec.getLsbD_append]
  simp [hi]

theorem append_and {n m : Nat} (a c : BitVec n) (b d : BitVec m) :
    (a ++ b) &&& (c ++ d) = (a &&& c) ++ (b &&& d) := by
  apply BitVec.eq_of_getLsbD_eq
  intro i hi
  simp only [BitVec.getLsbD_and, BitVec.getLsbD_append]
  split <;> rfl

theorem init (size : Nat) : Statement (.init size) := by
  intro _ r hr
  have hop : opField (encode (.init size)) = 0x1#4 := opField_append _ _
  simp only [opcodeRows, List.mem_cons, List.not_mem_nil, or_false] at hr
  rcases hr with rfl | rfl | rfl | rfl
  · have : (encode (.init size) &&& 0xF000#16) = 0x1000#16 := by
      have h := append_and 0x1#4 0xF#4 (BitVec.ofNat 12 size) 0x0#12
      rw [BitVec.and_zero] at h
      exact h
    simp only [OpcodeRow.accepts, this, Instr.mnemonic]; decide
  all_goals rw [accepts_eq_false (by decide) (by rw [hop]; decide)]; simp only [Instr.mnemonic]; decide

theorem absorb (byte : Byte) : Statement (.absorb byte) := by
  intro _ r hr
  have hop : opField (encode (.absorb byte)) = 0x2#4 := opField_append _ _
  simp only [opcodeRows, List.mem_cons, List.not_mem_nil, or_false] at hr
  rcases hr with rfl | rfl | rfl | rfl
  rotate_left
  · have : (encode (.absorb byte) &&& 0xFF00#16) = 0x2000#16 := by
      have h := append_and 0x2#4 0xF#4 (0x0#4 ++ byte) (0xF#4 ++ 0x0#8)
      have h' := append_and 0x0#4 0xF#4 byte 0x0#8
      rw [BitVec.and_zero] at h'
      exact h.trans (congrArg ((0x1#4 <<< 1) ++ ·) h')
    simp only [OpcodeRow.accepts, this, Instr.mnemonic]; decide
  all_goals rw [accepts_eq_false (by decide) (by rw [hop]; decide)]; simp only [Instr.mnemonic]; decide

theorem finish : Statement .finish := by
  intro _ r hr
  revert r
  decide

theorem reset : Statement .reset := by
  intro _ r hr
  revert r
  decide

end Sys2Proof.Laws.RowMatch
end

