-- ==== Sys2Proof/Laws/Step.lean ====
section
/-! SUPPORT. What a step with its ports can do: every case, with its condition. -/

namespace Sys2Proof.Machine

/-- The six things one step of the ports does (R61, R140, R180, R182, R186). -/
theorem portStep_cases (accept : CmdWord → State → Host.Outcome State Fault Refusal) (s : State) :
    (s.input.rst = true ∧ portStep accept s = .next (hardwareReset s.dropInput)) ∨
      (s.input.rst = false ∧ (∃ r, s.rsp = some r) ∧
        portStep accept s = .next (if s.input.rspReady then { s.dropInput with rsp := none } else s.dropInput)) ∨
      (s.input.rst = false ∧ s.rsp = none ∧ s.phase = .rounds ∧ portStep accept s = .next (roundStep s.dropInput)) ∨
      (s.input.rst = false ∧ s.rsp = none ∧ s.phase = .squeeze ∧
        portStep accept s = .next (squeezeStep s.dropInput)) ∨
      (s.input.rst = false ∧ s.rsp = none ∧ s.phase = .idle ∧ s.input.cmd = none ∧
        portStep accept s = .next s.dropInput) ∨
      (∃ w, s.input.rst = false ∧ s.rsp = none ∧ s.phase = .idle ∧ s.input.cmd = some w ∧
        portStep accept s = accept w s.dropInput) := by
  unfold portStep
  cases hr : s.input.rst <;> simp only [hr]
  · cases hp : s.rsp
    · cases hph : s.phase
      · cases hc : s.input.cmd <;> simp [hp, hph]
      · simp [hp, hph]
      · simp [hp, hph]
    · simp [hp]
  · simp

/-- A word is accepted exactly when the engine is ready and no reset comes (R61). -/
theorem portStep_accepts {accept : CmdWord → State → Host.Outcome State Fault Refusal} {s : State} {w : CmdWord}
    (hready : s.cmdReady = true) (hrst : s.input.rst = false) (hcmd : s.input.cmd = some w) :
    portStep accept s = accept w s.dropInput := by
  simp only [State.cmdReady, Bool.and_eq_true, decide_eq_true_eq, Option.isNone_iff_eq_none] at hready
  simp [portStep, hrst, hcmd, hready.1, hready.2]

theorem portStep_reset {accept : CmdWord → State → Host.Outcome State Fault Refusal} {s : State}
    (h : s.input.rst = true) : portStep accept s = .next (hardwareReset s.dropInput) := by
  simp [portStep, h]

@[simp] theorem input_cons (s : State) (i : PortInput) (is : List PortInput) :
    State.input { s with inputs := i :: is } = i := rfl

@[simp] theorem send_rst (w : CmdWord) : (PortInput.send w).rst = false := rfl
@[simp] theorem send_cmd (w : CmdWord) : (PortInput.send w).cmd = some w := rfl
@[simp] theorem take_rst : PortInput.take.rst = false := rfl
@[simp] theorem take_rspReady : PortInput.take.rspReady = true := rfl
@[simp] theorem quiet_rst : PortInput.quiet.rst = false := rfl
@[simp] theorem quiet_cmd : PortInput.quiet.cmd = none := rfl
@[simp] theorem quiet_rspReady : PortInput.quiet.rspReady = false := rfl

@[simp] theorem offerWord_input (w : CmdWord) (s : State) : (offerWord w s).input = .send w := rfl

@[simp] theorem offerWord_cmdReady (w : CmdWord) (s : State) : (offerWord w s).cmdReady = true := rfl

/-- A round short of the last (R145). -/
theorem roundStep_of_lt {s : State} (h : s.rnd.val < 23) :
    roundStep s = { s with lanes := keccakRound s.lanes s.rnd, rnd := s.rnd + 1 } := by simp [roundStep, h]

/-- The last round (R145). -/
theorem roundStep_of_last {s : State} (h : ¬ s.rnd.val < 23) :
    roundStep s = endOfRounds { s with lanes := keccakRound s.lanes s.rnd, rnd := 0, cursor := 0#8 } := by
  simp [roundStep, h]

theorem engineStep_of_idle {s : State} (h : s.phase = .idle) : engineStep s = s := by simp [engineStep, h]
theorem engineStep_of_rounds {s : State} (h : s.phase = .rounds) : engineStep s = roundStep s := by
  simp [engineStep, h]
theorem engineStep_of_squeeze {s : State} (h : s.phase = .squeeze) : engineStep s = squeezeStep s := by
  simp [engineStep, h]

/-- The engine's own micro-steps neither read nor change what the host drives (R149). -/
theorem engineStep_withInputs (s : State) (is : List PortInput) :
    engineStep { s with inputs := is } = { engineStep s with inputs := is } := by
  cases s with
  | mk lanes cursor mode valid phase rnd after rsp inputs =>
    cases phase with
    | idle => rfl
    | squeeze => rfl
    | rounds =>
      simp only [engineStep, roundStep]
      split
      · rfl
      · cases after <;> rfl

theorem engineStep_iterate_withInputs (n : Nat) (s : State) (is : List PortInput) :
    engineStep^[n] { s with inputs := is } = { engineStep^[n] s with inputs := is } := by
  induction n generalizing s with
  | zero => rfl
  | succ n ih => rw [Function.iterate_succ_apply, engineStep_withInputs, ih, Function.iterate_succ_apply]

end Sys2Proof.Machine
end

