-- ==== Sys2Proof/Laws/Sequencer.lean ====
section
/-! SUPPORT. What the ACCEPT micro-steps do, case by case. -/

namespace Sys2Proof.Machine

/-- ACCEPT of an ABSORB away from the boundary is the whole command (R143). -/
theorem acceptAbsorb_of_lt {s : State} (b : Byte) (h : s.cursor.toNat + 1 < s.rate) :
    acceptAbsorb b s =
      respond .ok [] { s with lanes := memXor s.lanes s.cursor.toNat b, cursor := s.cursor + 1#8 } := by
  have := toNat_cursor_succ (s := s) (by omega)
  unfold acceptAbsorb
  simp only [this]
  exact if_neg (by omega)

/-- ACCEPT of an ABSORB at the boundary starts the rounds (R143). -/
theorem acceptAbsorb_of_fills {s : State} (b : Byte) (h : s.cursor.toNat + 1 = s.rate) :
    acceptAbsorb b s =
      { s with
        lanes := memXor s.lanes s.cursor.toNat b
        cursor := s.cursor + 1#8
        phase := .rounds
        rnd := 0
        after := .toIdle } := by
  have := toNat_cursor_succ (s := s) (by omega)
  unfold acceptAbsorb
  simp only [this]
  exact if_pos h

/-- A word's ACCEPT is the whole command, unless it is an ABSORB or FINISH that a configured engine runs (R142 to R144). -/
theorem acceptWord_cases (w : CmdWord) (s : State) :
    acceptWord w s = runWord w s ∨
      (s.valid = true ∧ s.cursor.toNat < s.rate ∧
        ((∃ b, decode w = .ok (.absorb b) ∧ acceptWord w s = .next (acceptAbsorb b s)) ∨
          (decode w = .ok .finish ∧ acceptWord w s = .next (acceptFinish s)))) := by
  unfold runWord acceptWord
  cases decode w with
  | error e => exact .inl rfl
  | ok i =>
    cases i with
    | init n => exact .inl rfl
    | reset => exact .inl rfl
    | absorb b =>
      rcases execAbsorb_cases b s with ⟨h, e⟩ | ⟨h, h2, -⟩ | ⟨h, h2, e⟩
      · left; simp only [acceptInstr, exec_absorb, e, whenConfigured_of_not_valid h]
      · right
        refine ⟨h, h2, .inl ⟨b, rfl, ?_⟩⟩
        simp only [acceptInstr, whenConfigured_of_valid h, whenCursorInWindow_of_lt h2]
      · left; simp only [acceptInstr, exec_absorb, e, whenConfigured_of_valid h, whenCursorInWindow_of_le h2]
    | finish =>
      rcases execFinish_cases s with ⟨h, e⟩ | ⟨h, h2, -⟩ | ⟨h, h2, e⟩
      · left; simp only [acceptInstr, exec_finish, e, whenConfigured_of_not_valid h]
      · right
        refine ⟨h, h2, .inr ⟨rfl, ?_⟩⟩
        simp only [acceptInstr, whenConfigured_of_valid h, whenCursorInWindow_of_lt h2]
      · left; simp only [acceptInstr, exec_finish, e, whenConfigured_of_valid h, whenCursorInWindow_of_le h2]

theorem runToIdle_of_idle (n : Nat) {s : State} (h : s.phase = .idle) : runToIdle n s = s := by
  cases n <;> simp [runToIdle, h]

/-- Micro-steps before IDLE are the engine's own, one after another. -/
theorem runToIdle_add (n k : Nat) (s : State) (h : ∀ j < n, (engineStep^[j] s).phase ≠ .idle) :
    runToIdle (n + k) s = runToIdle k (engineStep^[n] s) := by
  induction n generalizing s with
  | zero => simp
  | succ n ih =>
    have h0 : s.phase ≠ .idle := h 0 (by omega)
    rw [show n + 1 + k = (n + k) + 1 by omega, runToIdle, if_neg h0, ih _ fun j hj => h (j + 1) (by omega)]
    rfl

end Sys2Proof.Machine
end

