-- ==== Sys2Proof/Laws/Safety.lean ====
section
/-! SUPPORT. The responses the engine makes are legal; an idle state meets the invariant through R34. -/

namespace Sys2Proof.Machine

theorem legal_empty (st : Status) : (Response.ofPair st []).Legal := by
  refine ⟨.inl rfl, ?_⟩
  rw [ofPair_data, packBytes, BitVec.zero_ushiftRight]

theorem legal_digest (s : State) : (Response.ofPair .ok (squeeze s)).Legal := by
  have hb := s.mode.ob_le
  have hl : (Response.ofPair .ok (squeeze s)).len.toNat = s.mode.ob := by
    rw [ofPair_len _ _ (by rw [length_squeeze]; omega), length_squeeze]
  refine ⟨.inr ⟨rfl, ?_⟩, ?_⟩
  · rw [hl]; cases s.mode <;> decide
  · rw [hl, ← length_squeeze]; exact packBytes_high _

theorem inv_of_idleInv {s : State} (h : s.IdleInv) (hl : ∀ r, s.rsp = some r → r.Legal) : s.Inv := by
  have hp := h.2.2.1
  exact ⟨fun _ => h, fun e => by simp [hp] at e, fun e => by simp [hp] at e, hl⟩

/-- A pending response means the engine is idle. -/
theorem idle_of_rsp {s : State} (h : s.Inv) {r : Response} (hr : s.rsp = some r) : s.phase = .idle := by
  cases hp : s.phase with
  | idle => rfl
  | rounds => exact absurd (h.2.1 hp).2.2 (by simp [hr])
  | squeeze => exact absurd (h.2.2.1 hp).2.2.2.2 (by simp [hr])

end Sys2Proof.Machine
end

