-- ==== Sys2Proof/Tests/Slice0.lean ====
section
/-! SUPPORT. The model's own tests, on values the spec states (95_test_vectors.md unless a rule is named), and one witness for
each statement of Certificates/Slice0/Obligations.lean that has hypotheses: a concrete state and operands that meet them. -/

namespace Sys2Proof.Tests

open Sys2Proof.Machine

/-! ### Small states -/

/-- Lanes that are zero but for A[0]. -/
def lanesWith (v : Lane) : Lanes := zeroLanes.set 0 v

/-- A configured, idle engine. -/
def session (m : Mode) (cursor : Nat) (a0 : Lane) : State :=
  { State.reset with lanes := lanesWith a0, cursor := BitVec.ofNat 8 cursor, mode := m, valid := true }

/-- S_C of section 6: the state after `INIT 256`, `ABSORB 0x61`. -/
def stateC : State := session .m256 1 0x61#64

/-- An engine inside a permutation, about to run round `n`. -/
def running (after : After) (n : Fin 24) : State :=
  { session .m256 136 0x61#64 with phase := .rounds, rnd := n, after := after }

/-- An engine about to squeeze. -/
def squeezing : State := { session .m256 0 0x61#64 with phase := .squeeze, after := .toSqueeze }

/-- A state with a response waiting. -/
def answered (s : State) : State := respond .ok [] s

/-- The state a step leads to, or the state itself where the machine stops. -/
def after (o : Host.Outcome State Fault Refusal) (s : State) : State :=
  match o with
  | .next t => t
  | _ => s

/-- The test state T of section 4. -/
def stateT : Lanes := Vector.ofFn fun i : Fin 25 => BitVec.ofNat 64 ((i.val + 1) * 0x0123456789ABCDEF)

/-! ### Well-formed terms -/

theorem test_init_4096_illFormed : (Instr.init 4096).wellFormed = false := by decide

theorem test_init_4095_wellFormed : (Instr.init 4095).wellFormed = true := by decide

/-! ### Decode (section 6; R63 to R66) -/

theorem test_decode_init : decode 0b0001000111111111#16 = .ok (.init 511) ∧ decode 0x1000#16 = .ok (.init 0) ∧
    decode 0x1080#16 = .ok (.init 128) ∧ decode 0x1180#16 = .ok (.init 384) ∧
    decode 0x1200#16 = .ok (.init 512) := by decide

theorem test_decode_absorb : decode 0b0010000010000001#16 = .ok (.absorb 0x81#8) ∧
    decode 0x2000#16 = .ok (.absorb 0x00#8) ∧ decode 0x2100#16 = .error (.absorbReservedBits 0x100#12) := by decide

theorem test_decode_finish : decode 0x3000#16 = .ok .finish ∧
    decode 0b0011000000000001#16 = .error (.finishReservedBits 0x001#12) := by decide

theorem test_decode_reset : decode 0x4000#16 = .ok .reset ∧
    decode 0b0100100000000000#16 = .error (.resetReservedBits 0x800#12) := by decide

theorem test_decode_reserved : decode 0x0FFF#16 = .error (.reservedOpcode 0x0#4) ∧
    decode 0x5000#16 = .error (.reservedOpcode 0x5#4) ∧ decode 0xF000#16 = .error (.reservedOpcode 0xF#4) ∧
    decode 0xFFFF#16 = .error (.reservedOpcode 0xF#4) := by decide

theorem test_encode : encode (.init 224) = 0x10E0#16 ∧ encode (.absorb 0x61#8) = 0x2061#16 := by decide

theorem test_decodeTableWord : decodeTableWord 16 0x20FF = some (.absorb 0xFF#8) ∧
    decodeTableWord 16 0x4001 = none ∧ decodeTableWord 32 0x3000 = none := by decide

/-! ### Reset (R35, R180) -/

theorem test_reset_state : State.reset.arch = (zeroLanes, 0#8, .m224, false) ∧ State.reset.ctl = 0#11 ∧
    State.reset.phase = .idle ∧ State.reset.rnd = 0 ∧ State.reset.after = .toIdle ∧ State.reset.rspValid = false ∧
    State.reset.cmdReady = true ∧ memCells State.reset.lanes = [] := by decide

/-! ### INIT -/

/-- S_C with 0x1180 is (Z, 0, 2, 1); S_U with 0x10E0 is (Z, 0, 0, 1). -/
theorem test_init_accepted : (after (exec (.init 384) stateC) stateC).arch = (zeroLanes, 0#8, .m384, true) ∧
    (after (runWord 0x10E0#16 .reset) stateC).arch = (zeroLanes, 0#8, .m224, true) := by decide

/-- S_C with 0x1080 and with 0x10E1 is S_U, status 1. -/
theorem test_init_rejected : (after (exec (.init 128) stateC) stateC).arch = State.reset.arch ∧
    (after (exec (.init 225) stateC) stateC).arch = State.reset.arch ∧
    (after (exec (.init 225) stateC) stateC).rsp.map (·.status.code) = some 1#4 := by decide

/-! ### ABSORB -/

/-- S_C with 0x2062 has A[0] = 0x6261 and CURSOR 2; R42: the byte at offset 135 is the top byte of A[16]. -/
theorem test_absorb_byte : (after (runWord 0x2062#16 stateC) stateC).arch = (lanesWith 0x6261#64, 2#8, .m256, true) ∧
    laneAt (memXor zeroLanes 135 0x80#8) 16 = 0x8000000000000000#64 := by decide

/-- S_U with 0x2061 is S_U, status 2; with 0x2161 the status is 3 (R166). -/
theorem test_absorb_unconfigured :
    after (runWord 0x2061#16 .reset) stateC = { State.reset with rsp := some ⟨.notConfigured, 0#7, 0#512⟩ } ∧
    after (runWord 0x2161#16 .reset) stateC = { State.reset with rsp := some ⟨.illegalCommand, 0#7, 0#512⟩ } := by
  decide +kernel

/-! ### FINISH -/

/-- S_C with 0x3000 answers the digest of "a" at 256 bits. -/
theorem test_finish_digest : (after (runWord 0x3000#16 stateC) stateC).rsp.map Response.payload = some
     [0x80#8, 0x08#8, 0x4B#8, 0xF2#8, 0xFB#8, 0xA0#8, 0x24#8, 0x75#8, 0x72#8, 0x6F#8, 0xEB#8, 0x2C#8,
      0xAB#8, 0x2D#8, 0x82#8, 0x15#8, 0xEA#8, 0xB1#8, 0x4B#8, 0xC6#8, 0xBD#8, 0xD8#8, 0xBF#8, 0xB2#8,
      0xC8#8, 0x15#8, 0x12#8, 0x57#8, 0x03#8, 0x2E#8, 0xCD#8, 0x8B#8] := by
  decide +kernel

/-- The pads of R106, and the lanes before the permutation for "abc" at 256 bits (section 5). -/
theorem test_finish_pad : padBlock 143 144 = [0x86#8] ∧ padBlock 142 144 = [0x06#8, 0x80#8] ∧
    (padBlock 0 72).length = 72 ∧
    ((acceptFinish (session .m256 3 0x636261#64)).lanes =
      (lanesWith 0x6636261#64).set 16 0x8000000000000000#64) := by decide +kernel

/-! ### RESET -/

/-- S_C with 0x4000 is (Z, 0, 1, 1), status 0. -/
theorem test_reset_command : (after (exec .reset stateC) stateC).arch = (zeroLanes, 0#8, .m256, true) ∧
    (after (exec .reset stateC) stateC).rsp = some ⟨.ok, 0#7, 0#512⟩ := by
  decide +kernel

/-! ### Illegal words -/

/-- S_C with 0xFFFF and with 0x3001 is S_C, status 3. -/
theorem test_illegal_words :
    runWord 0xFFFF#16 stateC = .next { stateC with rsp := some ⟨.illegalCommand, 0#7, 0#512⟩ } ∧
    runWord 0x3001#16 stateC = .next { stateC with rsp := some ⟨.illegalCommand, 0#7, 0#512⟩ } := ⟨rfl, rfl⟩

/-! ### The permutation's steps on T (section 4) -/

theorem test_theta : theta stateT =
    #v[0x10DC97FA507BDE84#64, 0x19343332200F74C7#64, 0x1E3481ED9B7674C3#64, 0x24871BF5199E9493#64, 0x177AA077098FB001#64,
     0x172C72F0E3D6C0F1#64, 0x1C845C29F0EA4E90#64, 0x14477AE74B2B7276#64, 0x2A377EC8E83B9E48#64, 0x19AA4D79D962BEFC#64,
     0x1D7C29EF33B1CA2E#64, 0x16D5F9274755482D#64, 0x1397D79AFBCC682D#64, 0x2FE7C5C2B854E03D#64, 0x03DBEA63A8C5A4AB#64,
     0x03CB84E5436CCD9B#64, 0x0825221D173043C6#64, 0x0927B09CA86167C0#64, 0x359428C408F1EB92#64, 0x040B976478B8A306#64,
     0x061B63E392C7F7F0#64, 0x02754F18E79B5D93#64, 0x07766D96581A9D77#64, 0x3B448FDFD72AED47#64, 0x0EBB3C6EC813A9FD#64] := by
  decide +kernel

theorem test_rho : rho stateT =
    #v[0x0123456789ABCDEF#64, 0x048D159E26AF37BC#64, 0x40DA740DA740DA73#64, 0xE26AF37BC048D159#64, 0x2D82D82D582D82D8#64,
     0xA06D39A06D3A06D3#64, 0x2A18907F6E5D4C3B#64, 0x468ACF13579BDE02#64, 0xB3851EB851EB851E#64, 0x60B60B60B560B60B#64,
     0x641FDB97530ECA28#64, 0x9D0369D0369CD036#64, 0xCBA9187654320FED#64, 0x530ECA86241FDB97#64, 0x8888808888888888#64,
     0x79BDE02468ACF135#64, 0x159BE26AF37C048D#64, 0x70A3D70A3D670A3D#64, 0xD5E6F80917A2B3C4#64, 0xC16C16C16C16AC16#64,
     0xC5F92C5F926C5F92#64, 0x641FDB97530ECA28#64, 0x23456789ABCDF00F#64, 0x681B4E81B4E81B4E#64, 0x71C71C71C715C71C#64] := by
  decide +kernel

/-- R84's example: the lane at (1, 1), index 6, moves to (1, 0), index 1; and position 5 of Pi(T) holds T[3]. -/
theorem test_pi : laneAt (pi stateT) 1 = laneAt stateT 6 ∧ laneAt (pi stateT) 5 = 0x048D159E26AF37BC#64 ∧
    laneAt (pi stateT) 24 = 0x1907F6E5D4C3B28A#64 := by decide +kernel

theorem test_chi : chi stateT =
    #v[0x000A155705ABADEE#64, 0x06C28F4731FB8DEE#64, 0x02599A370D5369CE#64, 0x048E11FC2F0FFFF8#64, 0x07F4D18DA20F17BB#64,
     0x0EDBAA45364A9DEA#64, 0x05D3B55751B2B18E#64, 0x085AAD346DEA6D68#64, 0x0EAE70C7CD0AEDEF#64, 0x0A44F39BA1062B57#64,
     0x0ECB7D7363D18946#64, 0x0C8209727649A524#64, 0x1EDA9651EDA96522#64, 0x036F21CB6D058B56#64, 0x10351199051D3731#64,
     0x161C367F10A88CF0#64, 0x12D39D4835A8ACEE#64, 0x163BA9576E386CCE#64, 0x15AA34C72D5080ED#64, 0x1782E596E52C36A3#64,
     0x15CCB976413BE4EA#64, 0x1843775574D3FC8A#64, 0x1E1A7A454FAB906E#64, 0x18CAB1D6E20BAEE0#64, 0x1472819DE5070E57#64] := by
  decide +kernel

/-- R86's example. -/
theorem test_iota : laneAt (iota stateT 23) 0 = 0x8123456709AB4DE7#64 ∧
    laneAt (iota stateT 23) 1 = 0x02468ACF13579BDE#64 := by decide +kernel

theorem test_round : keccakRound stateT 23 =
    #v[0xD3DCFFEE6A471E5C#64, 0xBC6917E90580BF0F#64, 0xA45BC89C368596F4#64, 0x08451BC762462E85#64, 0x6B3AB204EFFF42A4#64,
     0x79F9A019224630EF#64, 0xD785162FCF803822#64, 0x0B6743CBD68E0078#64, 0x1969E14D940B82F7#64, 0x66EADB900682D9AE#64,
     0xB6486664701DAB84#64, 0x1B59FDEA4A7C9D81#64, 0x0178A2C73D1FD7E2#64, 0x3BF74018B8BDE786#64, 0x8E18D28D55000C6C#64,
     0xFACCED8C0D9B4552#64, 0xB5664F31D0072F8E#64, 0x50D59D9219379E37#64, 0x600A6D30B3C8D191#64, 0x421B469EAD9300E1#64,
     0x854F647BEF5CBD20#64, 0xBD1C39B9767CD7CD#64, 0x62965DE1E591059C#64, 0x1F93361FF79943B6#64, 0x29C527E79E4D7683#64] := by
  decide +kernel

/-- The walk of R89 (c): the offsets are the triangular numbers mod 64 along (x, y) to (y, (2x + 3y) mod 5) from (1, 0). -/
theorem test_rho_walk : (List.range 24).map (fun t =>
      let p := (fun q : Nat × Nat => (q.2, (2 * q.1 + 3 * q.2) % 5))^[t] (1, 0)
      rhoOffset p.1 p.2) =
    (List.range 24).map fun t => (t + 1) * (t + 2) / 2 % 64 := by decide +kernel

/-- R89 (b), the recurrence: bit 2^j - 1 of RC[i] is rc(j + 7i), every other bit is 0. -/
theorem test_round_constants : ∀ i : Fin 24,
    rc i = (List.range 7).foldl (fun (acc : Lane) j =>
      let r := (fun r : Nat => if 256 ≤ 2 * r then Nat.xor (2 * r) 0x171 else 2 * r)^[j + 7 * i.val] 1
      if r % 2 = 1 then acc ||| (1#64 <<< (2 ^ j - 1)) else acc) 0#64 := by decide +kernel

/-! ### The sequencer (section 8) -/

/-- P1: an ABSORB takes 1 micro-step, FINISH 26; P5: the ABSORB that fills the window 25, and 124 for the whole program. -/
theorem test_micro_steps : microSteps 0x2061#16 stateC = 1 ∧ microSteps 0x3000#16 stateC = 26 ∧
    microSteps 0x20A3#16 (session .m512 71 0#64) = 25 ∧ microSteps 0x1200#16 stateC = 1 := by decide

/-- After the ACCEPT of FINISH in P1 and the round with RND = 0, lane 0 is 0x0000040006636261 (section 8). -/
theorem test_round_micro_step :
    laneAt (roundStep (acceptFinish (session .m256 3 0x636261#64))).lanes 0 = 0x0000040006636261#64 ∧
    (roundStep (acceptFinish (session .m256 3 0x636261#64))).rnd = 1 := by decide +kernel

/-! ### The assembler (R70, R71, R125, R126) -/

theorem test_parse_lines : parseLine "INIT 256 ; start".toList = some (some (.command (.init 256))) ∧
    parseLine "ABSORB 0x61".toList = some (some (.command (.absorb 0x61#8))) ∧
    parseLine "ABSORB 'a'".toList = some (some (.command (.absorb 0x61#8))) ∧
    parseLine ".word 0x2161".toList = some (some (.rawWord 0x2161)) ∧
    parseLine "update \"abc\"".toList = some (some (.update [0x61#8, 0x62#8, 0x63#8])) ∧
    parseLine "HASH 256, \"abc\"".toList = some (some (.hash 256 [0x61#8, 0x62#8, 0x63#8])) ∧
    parseLine "; only a comment".toList = some none := by decide +kernel

/-- P1's words. -/
theorem test_assemble_hash : assemble none [.hash 256 [0x61#8, 0x62#8, 0x63#8]] =
    .ok [0x1100#16, 0x2061#16, 0x2062#16, 0x2063#16, 0x3000#16] := by decide +kernel

/-- R126: ABSORB_BLOCK needs exactly RATE bytes. -/
theorem test_assemble_block :
    assemble none [.command (.init 512), .absorbBlock [0xA3#8]] = .error (.blockLength 1 72) ∧
    assemble none [.command (.init 512), .absorbBlock (List.replicate 72 0xA3#8)] =
      .ok (0x1200#16 :: List.replicate 72 0x20A3#16) := by decide +kernel

theorem test_trace_line : traceLine 0x1080#16 ⟨.unsupportedDigestSize, 0#7, 0#512⟩ = "0x1080 -> 1 empty".toList := by
  decide +kernel

/-! ### Witnesses: states and operands that meet the statements' hypotheses -/

theorem witness_DecodeInvertsEncode : (Instr.init 4095).wellFormed = true ∧ (Instr.absorb 0xFF#8).wellFormed = true ∧
    Instr.finish.wellFormed = true ∧ Instr.reset.wellFormed = true := by decide

theorem witness_EncodeInvertsDecode : decode 0x1FFF#16 = .ok (.init 4095) ∧ decode 0x20FF#16 = .ok (.absorb 0xFF#8) ∧
    decode 0x3000#16 = .ok .finish ∧ decode 0x4000#16 = .ok .reset := by decide

theorem witness_LegalWordsAreTheFourPatterns : decode 0x1FFF#16 = .ok (.init 4095) ∧ decode 0x1000#16 = .ok (.init 0) ∧
    decode 0x2000#16 = .ok (.absorb 0x00#8) ∧ decode 0x20FF#16 = .ok (.absorb 0xFF#8) := by decide

/-- The last byte of the space and its neighbour. -/
theorem witness_ByteWriteIsReadBack : 199 < 200 ∧ 198 < 200 ∧ (198 : Nat) ≠ 199 ∧
    byteAt (setByteAt zeroLanes 199 0xAB#8) 199 = 0xAB#8 ∧ byteAt (setByteAt zeroLanes 199 0xAB#8) 198 = 0#8 := by decide

theorem witness_LaneIsItsEightBytes : 24 < 25 ∧ laneAt stateT 24 = 0x1C71C71C71C71C57#64 ∧
    byteAt stateT 192 = 0x57#8 ∧ byteAt stateT 199 = 0x1C#8 := by decide +kernel

theorem witness_MemXorIsReadXorWrite : 199 < 200 ∧ memRead (memXor zeroLanes 199 0x80#8) 199 1 = [0x80#8] := by decide

theorem witness_CellsDetermineLanes :
    memCells (memXor (memXor zeroLanes 199 0x80#8) 199 0x80#8) = memCells zeroLanes := by decide +kernel

/-- Rotations by 1 and by 63. -/
theorem witness_RotlMovesEveryBit : 1 ≤ 1 ∧ (63 : Nat) ≤ 63 ∧ rotl 0x8000000000000000#64 1 = 0x1#64 ∧
    rotl 0x1#64 63 = 0x8000000000000000#64 := by decide

/-- (0, 0) and (4, 4), the corners where the column numbers wrap. -/
theorem witness_ThetaLanes : 0 < 5 ∧ 4 < 5 ∧ laneAt (theta stateT) 0 = 0x10DC97FA507BDE84#64 ∧
    laneAt (theta stateT) (4 + 5 * 4) = 0x0EBB3C6EC813A9FD#64 := by decide +kernel

theorem witness_RhoLanes : 0 < 5 ∧ 4 < 5 ∧ laneAt (rho stateT) (0 + 5 * 4) = 0xC5F92C5F926C5F92#64 ∧
    laneAt (rho stateT) (4 + 5 * 0) = 0x2D82D82D582D82D8#64 := by decide +kernel

theorem witness_PiMovesLanes : 4 < 5 ∧ 24 < 25 ∧ laneAt (pi stateT) (4 + 5 * ((2 * 4 + 3 * 4) % 5)) =
    laneAt stateT (4 + 5 * 4) := by decide +kernel

theorem witness_ChiLanes : 4 < 5 ∧ 3 < 5 ∧ laneAt (chi stateT) (4 + 5 * 4) = 0x1472819DE5070E57#64 ∧
    laneAt (chi stateT) (3 + 5 * 0) = 0x048E11FC2F0FFFF8#64 := by decide +kernel

theorem witness_IotaChangesLaneZeroOnly : 1 ≤ 24 ∧ 24 < 25 ∧ laneAt (iota stateT 0) 24 = laneAt stateT 24 := by
  decide +kernel

theorem witness_TwentyFourRoundStepsPermute : (running .toIdle 0).phase = .rounds ∧ (running .toIdle 0).rnd = 0 ∧
    (running .toSqueeze 0).phase = .rounds ∧ (running .toSqueeze 0).rnd = 0 := by decide

/-- CURSOR at both ends of the window. -/
theorem witness_AbsorbBytesCountsWindows : (session .m512 0 0#64).cursor.toNat < (session .m512 0 0#64).rate ∧
    (session .m224 143 0#64).cursor.toNat < (session .m224 143 0#64).rate := by decide

/-- No byte at all, and one byte short of the boundary. -/
theorem witness_ZeroBytesOnlyMoveCursor : (session .m512 71 0#64).cursor.toNat + 0 < (session .m512 71 0#64).rate ∧
    (session .m224 0 0#64).cursor.toNat + 143 < (session .m224 0 0#64).rate := by decide

/-- padLen 1, padLen 2, padLen RATE. -/
theorem witness_PadBlockShape : 143 < 144 ∧ 144 - 143 = 1 ∧ 142 < 144 ∧ 2 ≤ 144 - 142 ∧ 0 < 144 ∧ 2 ≤ 144 - 0 := by
  decide

/-- CURSOR = 0, and CURSOR = RATE - 1, where both XORs fall in one byte. -/
theorem witness_PadIsTwoXorsAndOnePermutation : (session .m256 0 0#64).cursor.toNat < (session .m256 0 0#64).rate ∧
    (session .m256 135 0#64).cursor.toNat < (session .m256 135 0#64).rate ∧ 135 / 8 = 136 / 8 - 1 ∧ 24 < 25 := by decide

theorem witness_FullWindowIsXorAndPermute : (session .m512 0 0x61#64).cursor = 0#8 ∧
    (List.replicate 72 0xFF#8).length = (session .m512 0 0x61#64).rate := by decide

/-- The four sizes, and numbers one off, 0, 128 and past the field. -/
theorem witness_InitConfiguresOrRejects : 224 = Mode.m224.size ∧ 256 = Mode.m256.size ∧ 384 = Mode.m384.size ∧
    512 = Mode.m512.size ∧ 0 ∉ [224, 256, 384, 512] ∧ 128 ∉ [224, 256, 384, 512] ∧ 513 ∉ [224, 256, 384, 512] ∧
    4096 ∉ [224, 256, 384, 512] := by decide

/-- One byte short of the last byte of the window, and the last byte. -/
theorem witness_AbsorbTakesOneByte : (session .m224 142 0#64).valid = true ∧
    (session .m224 142 0#64).cursor.toNat + 1 < (session .m224 142 0#64).rate ∧ (session .m224 143 0#64).valid = true ∧
    (session .m224 143 0#64).cursor.toNat + 1 = (session .m224 143 0#64).rate := by decide

theorem witness_AbsorbFrame : stateC.valid = true ∧ stateC.cursor.toNat + 1 < stateC.rate ∧
    exec (.absorb 0x62#8) stateC =
      .next { session .m256 2 0x6261#64 with rsp := some ⟨.ok, 0#7, 0#512⟩ } := ⟨by decide, by decide, rfl⟩

/-- The first and the last capacity byte, for both commands. -/
theorem witness_AcceptLeavesCapacity :
    (∃ t, acceptInstr .finish stateC = .next t) ∧ (∃ t, acceptInstr (.absorb 0x62#8) stateC = .next t) ∧
    stateC.rate ≤ 136 ∧ stateC.rate ≤ 199 ∧ 199 < 200 := ⟨⟨_, rfl⟩, ⟨_, rfl⟩, by decide, by decide, by decide⟩

theorem witness_FinishReturnsTheDigest : stateC.valid = true ∧ stateC.cursor.toNat < stateC.rate ∧
    (session .m512 71 0#64).valid = true ∧ (session .m512 71 0#64).cursor.toNat < (session .m512 71 0#64).rate := by decide

/-- FINISH in S_C goes on; OB = 28 has three whole lanes and a part of the fourth. -/
theorem witness_DigestPlacement : stateC.valid = true ∧ (∃ t, exec .finish stateC = .next t) ∧
    8 * 3 + 8 ≤ Mode.m256.ob ∧ 8 * 2 + 8 ≤ Mode.m224.ob ∧ ¬ 8 * 3 + 8 ≤ Mode.m224.ob ∧ 27 < Mode.m224.ob := by
  refine ⟨by decide, ?_, by decide, by decide, by decide, by decide⟩
  rcases execFinish_cases stateC with ⟨h, _⟩ | ⟨_, _, h⟩ | ⟨_, h, _⟩
  · exact absurd h (by decide)
  · exact ⟨_, h⟩
  · exact absurd h (by decide)

theorem witness_ResetZeroesTheSession : stateC.valid = true ∧ stateC.lanes ≠ zeroLanes ∧ stateC.cursor ≠ 0#8 := by decide

theorem witness_UnconfiguredRaisesNotConfigured : State.reset.valid = false ∧ (∀ n, Instr.absorb 0x61#8 ≠ .init n) ∧
    (∀ n, Instr.finish ≠ .init n) ∧ ∀ n, Instr.reset ≠ .init n := by simp [State.reset]

theorem witness_RejectedInitLeavesNoSession : 225 ∉ [224, 256, 384, 512] ∧ (∀ n, Instr.finish ≠ .init n) := by simp

/-- A word of each clause. -/
theorem witness_IllegalWordsChangeNothing : (0x0FFF#16).toNat / 4096 = 0 ∧ 5 ≤ (0x5000#16).toNat / 4096 ∧
    ((0x2100#16).toNat / 4096 = 2 ∧ (0x2100#16).toNat / 256 % 16 ≠ 0) ∧
    ((0x3001#16).toNat / 4096 = 3 ∧ (0x3001#16).toNat % 4096 ≠ 0) ∧
    ((0x4800#16).toNat / 4096 = 4 ∧ (0x4800#16).toNat % 4096 ≠ 0) ∧
    decode 0x2100#16 = .error (.absorbReservedBits 0x100#12) := by decide

/-- CURSOR = RATE in a configured, idle engine: no run gets there. -/
theorem witness_StopsOnlyOutsideTheWindow : (session .m256 136 0#64).valid = true ∧
    (session .m256 136 0#64).rate ≤ (session .m256 136 0#64).cursor.toNat ∧
    exec .finish (session .m256 136 0#64) = .fault .cursorOutsideWindow := ⟨by decide, by decide, rfl⟩

theorem witness_CommandFrame : (∃ t, exec .reset stateC = .next t) ∧ (∀ n, Instr.reset ≠ .init n) ∧
    (∀ b, Instr.reset ≠ .absorb b) ∧ Instr.reset ≠ .finish ∧ (∃ t, exec .reset .reset = .next t) ∧
    State.reset.valid = false := ⟨⟨_, rfl⟩, by simp, by simp, by simp, ⟨_, rfl⟩, rfl⟩

theorem witness_FinishLeavesAFreshSession : stateC.valid = true ∧ (∃ t, exec .finish stateC = .next t) ∧
    ∃ v, exec (.init stateC.mode.size) .reset = .next v :=
  ⟨by decide, witness_DigestPlacement.2.1, ⟨_, rfl⟩⟩

theorem witness_EveryCommandResponds : (∃ t, runWord 0x3000#16 stateC = .next t) ∧ decode 0x3000#16 = .ok .finish ∧
    stateC.valid = true ∧ (∃ t, runWord 0x4000#16 stateC = .next t) :=
  ⟨witness_DigestPlacement.2.1, by decide, by decide, ⟨_, rfl⟩⟩

theorem witness_ResponseCarriesItsPayload : (List.replicate 64 0xFF#8).length ≤ 64 ∧ ([] : List Byte).length ≤ 64 := by
  decide

/-- An idle engine whose host sends `HASH 256, "abc"` word by word, and one whose host sends a rejected size. -/
theorem witness_HashCommandSequence :
    (∃ s : State, s.phase = .idle ∧ s.rsp = none ∧ 256 < 4096 ∧ 256 = Mode.m256.size ∧
      s.inputs = sendAll [0x1100#16, 0x2061#16, 0x2062#16, 0x2063#16, 0x3000#16]) ∧
    ∃ s : State, s.phase = .idle ∧ s.rsp = none ∧ 128 < 4096 ∧ 128 ∉ [224, 256, 384, 512] ∧
      s.inputs = sendAll [0x1080#16, 0x3000#16] :=
  ⟨⟨{ State.reset with inputs := sendAll [0x1100#16, 0x2061#16, 0x2062#16, 0x2063#16, 0x3000#16] }, by decide⟩,
    { State.reset with inputs := sendAll [0x1080#16, 0x3000#16] }, by decide⟩

theorem witness_StepRunsTheDecodedCommand :
    (offerWord 0x4000#16 stateC).cmdReady = true ∧ (offerWord 0x4000#16 stateC).input.rst = false ∧
    (offerWord 0x4000#16 stateC).input.cmd = some 0x4000#16 ∧ decode 0x4000#16 = .ok .reset ∧
    (offerWord 0x4001#16 stateC).cmdReady = true ∧ (offerWord 0x4001#16 stateC).input.cmd = some 0x4001#16 ∧
    decode 0x4001#16 = .error (.resetReservedBits 0x001#12) := by decide

theorem witness_FetchedWordRunsNext : 0x2062 < 65536 ∧ decode (BitVec.ofNat 16 0x2062) = .ok (.absorb 0x62#8) ∧
    after (step (State.withFetchWord stateC 16 0x2062)) stateC =
      { session .m256 2 0x6261#64 with rsp := some ⟨.ok, 0#7, 0#512⟩ } := by decide +kernel

/-- `rst` inside a permutation, and with a response pending. -/
theorem witness_HardwareResetAlwaysWins :
    State.input { running .toSqueeze 7 with inputs := [.reset] } = .reset ∧
    State.input { answered stateC with inputs := [.reset] } = .reset ∧ PortInput.reset.rst = true ∧
    step { running .toSqueeze 7 with inputs := [.reset] } = .next State.reset := ⟨by decide, by decide, by decide, rfl⟩

/-- A host that shows a word, waits a step and then takes the response: two steps of holding, then the one that takes. -/
theorem witness_ResponseIsHeldUntilTaken :
    State.rsp { answered stateC with inputs := [.send 0x4000#16, .quiet, .take] } = some ⟨.ok, 0#7, 0#512⟩ ∧
    (∀ i ∈ [PortInput.send 0x4000#16, .quiet, .take].take 2, i.rst = false ∧ i.rspReady = false) ∧
    State.input { answered stateC with inputs := [.take] } = .take ∧ PortInput.take.rst = false ∧
    PortInput.take.rspReady = true := by decide +kernel

theorem witness_UnreadyEngineTakesNoWord :
    (running .toIdle 3).cmdReady = false ∧ (answered stateC).cmdReady = false ∧
    State.inputs { running .toIdle 3 with inputs := [.send 0x4000#16] } = [.send 0x4000#16] := by decide

/-- A session whose host drives nothing, and one whose host shows `rsp_ready` with nothing to take. -/
theorem witness_IdleEngineWaitsForAWord :
    stateC.phase = .idle ∧ stateC.rsp = none ∧ stateC.input.rst = false ∧ stateC.input.cmd = none ∧
    State.input { stateC with inputs := [.take, .send 0x3000#16] } = .take ∧ PortInput.take.rst = false ∧
    PortInput.take.cmd = none := by decide

/-- An idle session, a waiting response, a running permutation and a state before the squeeze meet the invariant. -/
theorem witness_Inv : stateC.IdleInv ∧ stateC.Inv ∧ (running .toSqueeze 23).Inv ∧ squeezing.Inv ∧
    (answered stateC).Inv := by
  have hc : stateC.IdleInv := by decide
  have ha : (answered stateC).IdleInv := by decide
  refine ⟨hc, inv_of_idleInv hc (by simp [stateC, session, State.reset]), ?_, ?_, inv_of_idleInv ha ?_⟩
  · exact ⟨fun h => absurd h (by decide), fun _ => by decide, fun h => absurd h (by decide),
      by simp [running, session, State.reset]⟩
  · exact ⟨fun h => absurd h (by decide), fun h => absurd h (by decide), fun _ => by decide,
      by simp [squeezing, session, State.reset]⟩
  · intro r hr
    obtain rfl : Response.ofPair .ok [] = r := by simpa [answered] using hr
    exact legal_empty _

theorem witness_StepKeepsTheInvariant :
    (∃ t, step (State.withFetchWord stateC 16 0x4000) = .next t) ∧ (State.withFetchWord stateC 16 0x4000).Inv ∧
    (∃ t, step (running .toSqueeze 23) = .next t) :=
  ⟨⟨_, rfl⟩, inv_of_idleInv (by decide) (by simp [State.withFetchWord, offerWord]), ⟨_, rfl⟩⟩

theorem witness_MicroStepKeepsTheInvariant :
    (∃ t, microStep (State.withFetchWord stateC 16 0x3000) = .next t) ∧ (State.withFetchWord stateC 16 0x3000).Inv ∧
    (∃ t, microStep squeezing = .next t) :=
  ⟨⟨_, rfl⟩, inv_of_idleInv (by decide) (by simp [State.withFetchWord, offerWord]), ⟨_, rfl⟩⟩

/-- The four sizes of states R34 admits: unconfigured, at the first byte, at the last byte of a window. -/
theorem witness_SequencerAgreesWithCommandLevel : State.reset.IdleInv ∧ (session .m224 143 0x61#64).IdleInv ∧
    (session .m512 0 0#64).IdleInv := by decide

theorem witness_MicroStepCount :
    State.IdleInv { session .m512 71 0#64 with inputs := [.send 0x20A3#16] } ∧
    State.rsp { session .m512 71 0#64 with inputs := [.send 0x20A3#16] } = none ∧
    microSteps 0x20A3#16 (session .m512 71 0#64) = 25 ∧ microSteps 0x20A3#16 (session .m512 70 0#64) = 1 ∧
    microSteps 0x3000#16 (session .m512 70 0#64) = 26 := by decide

/-- P5 of section 8: 73 bytes at 512 bits cost 73 + 24 + 26 micro-steps. -/
theorem witness_MessageMicroStepCost : (session .m512 0 0#64).valid = true ∧ (session .m512 0 0#64).cursor = 0#8 ∧
    73 + 24 * (73 / (session .m512 0 0#64).rate) + 26 = 123 := by decide

/-- A host that shows a word and drives `rsp_ready` while the command runs, and resets only after it. -/
theorem witness_AcceptedCommandReachesItsResponse : (running .toSqueeze 23).Inv ∧ (running .toSqueeze 23).phase ≠ .idle ∧
    squeezing.Inv ∧ squeezing.phase ≠ .idle ∧
    (∀ i ∈ [PortInput.take, .send 0x4000#16, .reset].take 2, i.rst = false) ∧
    (engineStep^[2] (running .toSqueeze 23)).phase = .idle :=
  ⟨witness_Inv.2.2.1, by decide, witness_Inv.2.2.2.1, by decide, by decide, rfl⟩

/-- Each case of the enabled micro-step, RND at 0, 22 and 23 among them. -/
theorem witness_EnabledMicroStepRuns :
    (∀ n : Fin 24, (running .toIdle n).rsp = none ∧ (running .toIdle n).input.rst = false ∧
      (running .toIdle n).phase = .rounds ∧ (running .toIdle n).rnd = n ∧ (running .toIdle n).after = .toIdle ∧
      (running .toSqueeze n).after = .toSqueeze) ∧
    (0 : Fin 24).val < 23 ∧ (22 : Fin 24).val < 23 ∧ ¬ (23 : Fin 24).val < 23 ∧
    squeezing.rsp = none ∧ squeezing.input.rst = false ∧ squeezing.phase = .squeeze := by decide

/-- Two sessions with different lanes and different message bytes to come. -/
theorem witness_ControlIsDataIndependent :
    State.control { session .m256 1 0x61#64 with inputs := [.send 0x2062#16] } =
      State.control { session .m256 1 0x78#64 with inputs := [.send 0x2079#16] } ∧
    (session .m256 1 0x61#64).lanes ≠ (session .m256 1 0x78#64).lanes := ⟨rfl, by decide⟩

theorem witness_LatencyFollowsMicroSteps : microSteps 0x1100#16 stateC = 1 ∧
    microSteps 0x20A3#16 (session .m512 71 0#64) = 25 ∧ microSteps 0x3000#16 stateC = 26 := by decide

end Sys2Proof.Tests
end

section
/-! The opcode map's match and mask pairs (30_encoding.md R63) read field by field: masking a word masks its two fields, so
each pair says what `op` and `arg` are, and the decoder (R66) asks the same of them. -/

namespace Sys2Proof

/-- The two fields of the words R63 to R65 give this command. -/
def Instr.HasFields (op : BitVec 4) (arg : BitVec 12) : Instr → Prop
  | .init size => op = 0x1#4 ∧ arg.toNat = size
  | .absorb byte => op = 0x2#4 ∧ arg.extractLsb' 8 4 = 0#4 ∧ arg.extractLsb' 0 8 = byte
  | .finish => op = 0x3#4 ∧ arg = 0#12
  | .reset => op = 0x4#4 ∧ arg = 0#12

/-- A word decodes to the command whose fields it has, and to no other. -/
theorem decode_eq_ok_iff {w : CmdWord} {i : Instr} :
    decode w = .ok i ↔ i.HasFields (opField w) (argField w) := by
  constructor
  · intro hi
    rcases decode_cases w with ⟨hop, hw⟩ | ⟨hop, hres, hw⟩ | ⟨hop, harg, hw⟩ | ⟨hop, harg, hw⟩ | ⟨e, hw⟩
      <;> cases hw.symm.trans hi
    · exact ⟨hop, rfl⟩
    · exact ⟨hop, hres, rfl⟩
    · exact ⟨hop, harg⟩
    · exact ⟨hop, harg⟩
  · cases i with
    | init size => rintro ⟨hop, rfl⟩; simp [decode, hop]
    | absorb byte => rintro ⟨hop, hres, rfl⟩; simp [decode, hop, hres]
    | finish => rintro ⟨hop, harg⟩; simp [decode, hop, harg]
    | reset => rintro ⟨hop, harg⟩; simp [decode, hop, harg]

/-! ### Masking, field by field -/

/-- A masked vector is compared with a match one field at a time. -/
theorem and_append_eq_append_iff {n m : Nat} {x : BitVec (n + m)} {a c : BitVec n} {b d : BitVec m} :
    x &&& (a ++ b) = c ++ d ↔ x.extractLsb' m n &&& a = c ∧ x.extractLsb' 0 m &&& b = d := by
  constructor
  · intro h
    have hhigh := congrArg (BitVec.extractLsb' m n) h
    have hlow := congrArg (BitVec.extractLsb' 0 m) h
    rw [BitVec.extractLsb'_and, BitVec.extractLsb'_append_eq_left, BitVec.extractLsb'_append_eq_left] at hhigh
    rw [BitVec.extractLsb'_and, BitVec.extractLsb'_append_eq_right, BitVec.extractLsb'_append_eq_right] at hlow
    exact ⟨hhigh, hlow⟩
  · rintro ⟨rfl, rfl⟩
    have hx : x.extractLsb' m n ++ x.extractLsb' 0 m = x := by
      rw [BitVec.extractLsb'_append_extractLsb'_eq_extractLsb' (by omega), BitVec.extractLsb'_eq_self]
    rw [← BitVec.and_append, hx]

/-- Every row's mask keeps `op`, so the word has the row's `op` and the rest of the mask is about `arg`. -/
theorem and_keepOp_eq_iff {w : CmdWord} (mask : BitVec 12) (op : BitVec 4) (arg : BitVec 12) :
    w &&& (0xF#4 ++ mask) = op ++ arg ↔ opField w = op ∧ argField w &&& mask = arg := by
  have hkeep : opField w &&& 0xF#4 = opField w := BitVec.and_allOnes
  rw [← hkeep]
  exact and_append_eq_append_iff (n := 4) (m := 12) (x := w)

theorem and_initMask_eq_iff {w : CmdWord} : w &&& 0xF000#16 = 0x1000#16 ↔ opField w = 0x1#4 :=
  (and_keepOp_eq_iff 0x000#12 0x1#4 0x000#12).trans (and_iff_left BitVec.and_zero)

/-- ABSORB's mask keeps the reserved bits of `arg` and drops the byte. -/
theorem and_absorbMask_eq_iff {w : CmdWord} :
    w &&& 0xFF00#16 = 0x2000#16 ↔ opField w = 0x2#4 ∧ (argField w).extractLsb' 8 4 = 0#4 := by
  have hreserved : argField w &&& (0xF#4 ++ 0x00#8) = 0x0#4 ++ 0x00#8 ↔ (argField w).extractLsb' 8 4 = 0#4 := by
    have hkeep : (argField w).extractLsb' 8 4 &&& 0xF#4 = (argField w).extractLsb' 8 4 := BitVec.and_allOnes
    rw [← hkeep]
    exact (and_append_eq_append_iff (n := 4) (m := 8) (x := argField w)).trans (and_iff_left BitVec.and_zero)
  rw [← hreserved]
  exact and_keepOp_eq_iff 0xF00#12 0x2#4 0x000#12

/-- The mask of FINISH and RESET keeps the whole word. -/
theorem and_fullMask_eq_iff {w : CmdWord} (op : BitVec 4) :
    w &&& 0xFFFF#16 = op ++ 0#12 ↔ opField w = op ∧ argField w = 0#12 := by
  have hkeep : argField w &&& 0xFFF#12 = argField w := BitVec.and_allOnes
  rw [← hkeep]
  exact and_keepOp_eq_iff 0xFFF#12 op 0#12

/-! ### The rows of the opcode map exclude each other -/

/-- The `op` a row's match asks for. -/
def OpcodeRow.op (r : OpcodeRow) : BitVec 4 := r.matchBits.extractLsb' 12 4

theorem opField_eq_op_of_accepts {r : OpcodeRow} {w : CmdWord} (hr : r ∈ opcodeRows) (h : r.accepts w = true) :
    opField w = r.op := by
  have hmask : ∀ r ∈ opcodeRows, r.mask.extractLsb' 12 4 = 0xF#4 := by decide
  by_contra hop
  rw [Laws.RowMatch.accepts_eq_false (hmask r hr) hop] at h
  cases h

/-- The rows' `op` values differ (R63), and a word has one `op`. -/
theorem length_filter_accepts_le_one (w : CmdWord) : (opcodeRows.filter (·.accepts w)).length ≤ 1 := by
  have hnodup : ((opcodeRows.filter (·.accepts w)).map OpcodeRow.op).Nodup :=
    (List.filter_sublist.map OpcodeRow.op).nodup (by decide : (opcodeRows.map OpcodeRow.op).Nodup)
  have hsame : (opcodeRows.filter (·.accepts w)).map OpcodeRow.op =
      List.replicate (opcodeRows.filter (·.accepts w)).length (opField w) := by
    refine List.eq_replicate_iff.mpr ⟨List.length_map _, List.forall_mem_map.mpr fun r hr => ?_⟩
    obtain ⟨hmem, hacc⟩ := List.mem_filter.mp hr
    exact (opField_eq_op_of_accepts hmem hacc).symm
  rwa [hsame, List.nodup_replicate] at hnodup

/-! ### Each row accepts exactly the words of its command -/

theorem exists_decode_eq_init_iff {w : CmdWord} :
    (∃ size, decode w = .ok (.init size)) ↔ w &&& 0xF000#16 = 0x1000#16 := by
  simp only [decode_eq_ok_iff, Instr.HasFields, and_initMask_eq_iff, exists_and_left, exists_eq', and_true]

theorem exists_decode_eq_absorb_iff {w : CmdWord} :
    (∃ byte, decode w = .ok (.absorb byte)) ↔ w &&& 0xFF00#16 = 0x2000#16 := by
  simp only [decode_eq_ok_iff, Instr.HasFields, and_absorbMask_eq_iff, exists_and_left, exists_eq', and_true]

theorem decode_eq_finish_iff {w : CmdWord} : decode w = .ok .finish ↔ w &&& 0xFFFF#16 = 0x3000#16 :=
  decode_eq_ok_iff.trans (and_fullMask_eq_iff 0x3#4).symm

theorem decode_eq_reset_iff {w : CmdWord} : decode w = .ok .reset ↔ w &&& 0xFFFF#16 = 0x4000#16 :=
  decode_eq_ok_iff.trans (and_fullMask_eq_iff 0x4#4).symm

/-! ### The operands (R64, R65) -/

theorem size_eq_of_decode_eq_init {w : CmdWord} {size : Nat} (h : decode w = .ok (.init size)) :
    size = w.toNat % 4096 := by
  obtain ⟨-, hsize⟩ := decode_eq_ok_iff.mp h
  rw [← hsize, argField_toNat]

theorem byte_toNat_of_decode_eq_absorb {w : CmdWord} {byte : Byte} (h : decode w = .ok (.absorb byte)) :
    byte.toNat = w.toNat % 256 := by
  obtain ⟨-, -, hbyte⟩ := decode_eq_ok_iff.mp h
  rw [← hbyte, BitVec.extractLsb'_toNat, argField_toNat, Nat.shiftRight_zero]
  omega

/-- The words of a stuck bus spell no command. -/
theorem ne_stuckBus_of_decode_eq_ok {w : CmdWord} {i : Instr} (h : decode w = .ok i) :
    w ≠ 0x0000#16 ∧ w ≠ 0xFFFF#16 := by
  have hzeros : decode 0x0000#16 = .error (.reservedOpcode 0x0#4) := by decide
  have hones : decode 0xFFFF#16 = .error (.reservedOpcode 0xF#4) := by decide
  constructor
  · rintro rfl
    cases hzeros.symm.trans h
  · rintro rfl
    cases hones.symm.trans h

/-- Settles O4: each match and mask pair, read field by field, is the decoder's condition for that command. -/
theorem legalWordsAreTheFourPatterns : Obligations.LegalWordsAreTheFourPatterns := by
  intro w
  exact ⟨exists_decode_eq_init_iff, exists_decode_eq_absorb_iff, decode_eq_finish_iff, decode_eq_reset_iff,
    fun _ => size_eq_of_decode_eq_init, fun _ => byte_toNat_of_decode_eq_absorb, length_filter_accepts_le_one w,
    fun ⟨_, h⟩ => ne_stuckBus_of_decode_eq_ok h⟩

end Sys2Proof
end

section
/-! The five steps of a round (40_permutation.md R82 to R86) read at a linear lane index x + 5*y: each step but Iota is
built by `lanesOf`, so one lemma reads them all, and what is left is arithmetic modulo 5 and two printed tables. -/

namespace Sys2Proof.Machine

/-! ### Lanes by linear index -/

theorem laneXY_eq_laneAt (S : Lanes) {x : Nat} (hx : x < 5) (y : Nat) : laneXY S x y = laneAt S (x + 5 * y) := by
  rw [laneXY, Nat.mod_eq_of_lt hx]

theorem laneAt_lanesOf (f : Nat → Nat → Lane) {x y : Nat} (hx : x < 5) (hy : y < 5) :
    laneAt (lanesOf f) (x + 5 * y) = f x y := by
  rw [← laneXY_eq_laneAt _ hx, laneXY_lanesOf f hx hy]

/-! ### Theta (R82) -/

theorem thetaC_eq_laneAt (S : Lanes) {x : Nat} (hx : x < 5) :
    thetaC S x =
      laneAt S x ^^^ laneAt S (x + 5) ^^^ laneAt S (x + 10) ^^^ laneAt S (x + 15) ^^^ laneAt S (x + 20) := by
  simp only [thetaC, laneXY_eq_laneAt S hx, Nat.mul_zero, Nat.add_zero, Nat.reduceMul]

theorem laneAt_theta (S : Lanes) {x y : Nat} (hx : x < 5) (hy : y < 5) :
    laneAt (theta S) (x + 5 * y) = laneAt S (x + 5 * y) ^^^ thetaD S x := by
  rw [theta, laneAt_lanesOf _ hx hy, laneXY_eq_laneAt S hx]

/-- The two neighbouring columns, with the wrap at each end of the row written out. -/
theorem thetaD_eq_wrapped (S : Lanes) {x : Nat} (hx : x < 5) :
    thetaD S x = thetaC S (if x = 0 then 4 else x - 1) ^^^ rotl (thetaC S (if x = 4 then 0 else x + 1)) 1 := by
  have hleft : (x + 4) % 5 = if x = 0 then 4 else x - 1 := by split <;> omega
  have hright : (x + 1) % 5 = if x = 4 then 0 else x + 1 := by split <;> omega
  rw [thetaD, hleft, hright]

/-! ### Rho (R83, R87) -/

/-- R87's table as it is printed: one list for each row y, the entry of column x at position x. -/
def rhoRows : List (List Nat) :=
  [[0, 1, 62, 28, 27], [36, 44, 6, 55, 20], [3, 10, 43, 25, 39], [41, 45, 15, 21, 8], [18, 2, 61, 56, 14]]

theorem rhoOffset_eq_rhoRows : ∀ x < 5, ∀ y < 5, rhoOffset x y = (rhoRows.getD y []).getD x 0 := by decide

theorem laneAt_rho (S : Lanes) {x y : Nat} (hx : x < 5) (hy : y < 5) :
    laneAt (rho S) (x + 5 * y) = rotl (laneAt S (x + 5 * y)) (rhoOffset x y) := by
  rw [rho, laneAt_lanesOf _ hx hy, laneXY_eq_laneAt S hx]

/-! ### Pi (R84) -/

theorem laneAt_pi (S : Lanes) {x y : Nat} (hx : x < 5) (hy : y < 5) :
    laneAt (pi S) (x + 5 * y) = laneAt S ((x + 3 * y) % 5 + 5 * x) := by
  rw [pi, laneAt_lanesOf _ hx hy, laneXY]

/-- The move of R84 undoes the source of `pi`: in column y and row 2x + 3y, X + 3*Y is 6x + 10y, which is x modulo 5. -/
theorem laneAt_pi_moved (S : Lanes) {x y : Nat} (hx : x < 5) (hy : y < 5) :
    laneAt (pi S) (y + 5 * ((2 * x + 3 * y) % 5)) = laneAt S (x + 5 * y) := by
  have hsource : (y + 3 * ((2 * x + 3 * y) % 5)) % 5 = x := by omega
  rw [laneAt_pi S hy (Nat.mod_lt _ (by decide)), hsource]

theorem piDest_eq : ∀ i < 25, piDest.getD i 0 = i / 5 + 5 * ((2 * (i % 5) + 3 * (i / 5)) % 5) := by decide

theorem piSource_eq : ∀ j < 25, piSource.getD j 0 = (j % 5 + 3 * (j / 5)) % 5 + 5 * (j % 5) := by decide

theorem laneAt_pi_piDest (S : Lanes) {i : Nat} (hi : i < 25) : laneAt (pi S) (piDest.getD i 0) = laneAt S i := by
  rw [piDest_eq i hi, laneAt_pi_moved S (Nat.mod_lt _ (by decide)) (by omega), Nat.mod_add_div]

theorem laneAt_pi_eq_piSource (S : Lanes) {j : Nat} (hj : j < 25) :
    laneAt (pi S) j = laneAt S (piSource.getD j 0) := by
  rw [piSource_eq j hj, ← laneAt_pi S (Nat.mod_lt _ (by decide)) (by omega), Nat.mod_add_div]

/-! ### Chi (R85) -/

theorem laneAt_chi (S : Lanes) {x y : Nat} (hx : x < 5) (hy : y < 5) :
    laneAt (chi S) (x + 5 * y) =
      laneAt S (x + 5 * y) ^^^ (~~~ laneAt S ((x + 1) % 5 + 5 * y) &&& laneAt S ((x + 2) % 5 + 5 * y)) := by
  rw [chi, laneAt_lanesOf _ hx hy, laneXY_eq_laneAt S hx, laneXY, laneXY]

/-! ### Iota (R86, R88) -/

/-- R88's table as it is printed: row k holds RC[k], RC[k + 8] and RC[k + 16]. -/
def rcRows : List (List Lane) :=
  [[0x0000000000000001#64, 0x000000000000008A#64, 0x8000000000008002#64],
   [0x0000000000008082#64, 0x0000000000000088#64, 0x8000000000000080#64],
   [0x800000000000808A#64, 0x0000000080008009#64, 0x000000000000800A#64],
   [0x8000000080008000#64, 0x000000008000000A#64, 0x800000008000000A#64],
   [0x000000000000808B#64, 0x000000008000808B#64, 0x8000000080008081#64],
   [0x0000000080000001#64, 0x800000000000008B#64, 0x8000000000008080#64],
   [0x8000000080008081#64, 0x8000000000008089#64, 0x0000000080000001#64],
   [0x8000000000008009#64, 0x8000000000008003#64, 0x8000000080008008#64]]

theorem rc_eq_rcRows : ∀ i : Fin 24, rc i = (rcRows.getD (i.val % 8) []).getD (i.val / 8) 0#64 := by decide

theorem laneAt_iota (S : Lanes) (i : Fin 24) {j : Nat} (hj : j < 25) :
    laneAt (iota S i) j = if j = 0 then laneAt S 0 ^^^ rc i else laneAt S j := by
  rw [laneAt_eq _ hj, iota, Vector.getElem_set, laneXY_eq_laneAt S (by decide), laneAt_eq S hj]
  exact if_congr eq_comm rfl rfl

end Sys2Proof.Machine

namespace Sys2Proof

open Machine

/-- Settles O12: the lane of S and D[x], with D's two column parities written out. -/
theorem thetaLanes : Obligations.ThetaLanes := by
  intro S x y hx hy C
  have hC : ∀ c < 5, thetaC S c = C c := fun c hc => thetaC_eq_laneAt S hc
  rw [laneAt_theta S hx hy, thetaD_eq_wrapped S hx, hC _ (by split <;> omega), hC _ (by split <;> omega)]

/-- Settles O13: the offsets held by linear index are the entries of the printed table. -/
theorem rhoLanes : Obligations.RhoLanes := by
  intro S x y hx hy
  rw [laneAt_rho S hx hy, rhoOffset_eq_rhoRows x hx y hy, rhoRows]

/-- Settles O14: `pi` reads each lane from its source, and both index lists are that move at linear indices. -/
theorem piMovesLanes : Obligations.PiMovesLanes := fun S =>
  ⟨fun _ hx _ hy => laneAt_pi_moved S hx hy, fun _ hi => laneAt_pi_piDest S hi, fun _ hj => laneAt_pi_eq_piSource S hj⟩

/-- Settles O15: `chi` reads only its argument, at columns modulo 5. -/
theorem chiLanes : Obligations.ChiLanes := fun S _ _ hx hy => laneAt_chi S hx hy

/-- Settles O16: Iota writes lane 0 only, and the constants are the entries of the printed table. -/
theorem iotaChangesLaneZeroOnly : Obligations.IotaChangesLaneZeroOnly := by
  intro S i
  constructor
  · rw [laneAt_iota S i (by decide), if_pos rfl, rc_eq_rcRows, rcRows]
  · intro j hpos hj
    rw [laneAt_iota S i hj, if_neg (by omega)]

end Sys2Proof
end

section
/-! The sponge (41_sponge.md R103 to R108). Every absorbed byte is either one step of CURSOR or one permutation and a wrap
to 0, so RATE times the permutations plus CURSOR grows by one a byte; and the pad is 06, a run of zeros that only moves
CURSOR, and 80 on the byte that fills the window. -/

namespace Sys2Proof.Machine

/-! ### Counting windows (R103) -/

@[simp] theorem permCount_nil (s : State) : permCount s [] = 0 := rfl

theorem permCount_cons_of_fills {s : State} (b : Byte) (bs : List Byte) (h : s.cursor.toNat + 1 = s.rate) :
    permCount s (b :: bs) = 1 + permCount (absorbByte s b) bs := by
  rw [permCount, if_pos ((fillsWindow_iff s).mpr h)]

theorem permCount_cons_of_lt {s : State} (b : Byte) (bs : List Byte) (h : s.cursor.toNat + 1 < s.rate) :
    permCount s (b :: bs) = permCount (absorbByte s b) bs := by
  rw [permCount, if_neg (fun hf => h.ne ((fillsWindow_iff s).mp hf)), Nat.zero_add]

theorem cursor_absorbBytes_lt {s : State} (bs : List Byte) (h : s.cursor.toNat < s.rate) :
    (absorbBytes s bs).cursor.toNat < s.rate := by
  induction bs generalizing s with
  | nil => exact h
  | cons b bs ih => simpa using ih (cursor_absorbByte_lt b h)

/-- No byte is lost: RATE bytes for each permutation, and CURSOR counts those since the last one. -/
theorem cursor_absorbBytes_add_rate_mul_permCount {s : State} (bs : List Byte) (h : s.cursor.toNat < s.rate) :
    (absorbBytes s bs).cursor.toNat + s.rate * permCount s bs = s.cursor.toNat + bs.length := by
  induction bs generalizing s with
  | nil => simp
  | cons b bs ih =>
    have hrest := ih (cursor_absorbByte_lt b h)
    rw [absorbByte_rate, toNat_cursor_absorbByte b h] at hrest
    rw [absorbBytes_cons, List.length_cons]
    by_cases hfills : s.cursor.toNat + 1 = s.rate
    · rw [if_pos hfills] at hrest
      rw [permCount_cons_of_fills b bs hfills, Nat.mul_add]
      omega
    · rw [if_neg hfills] at hrest
      rw [permCount_cons_of_lt b bs (by omega)]
      omega

theorem permCount_eq_div_and_cursor_eq_mod {s : State} (bs : List Byte) (h : s.cursor.toNat < s.rate) :
    permCount s bs = (s.cursor.toNat + bs.length) / s.rate ∧
      (absorbBytes s bs).cursor.toNat = (s.cursor.toNat + bs.length) % s.rate := by
  obtain ⟨hdiv, hmod⟩ := (Nat.div_mod_unique (Nat.zero_lt_of_lt h)).mpr
    ⟨cursor_absorbBytes_add_rate_mul_permCount bs h, cursor_absorbBytes_lt bs h⟩
  exact ⟨hdiv.symm, hmod.symm⟩

/-! ### Zero bytes (R104) -/

theorem absorbByte_zero_of_lt {s : State} (h : s.cursor.toNat + 1 < s.rate) :
    absorbByte s 0x00#8 = { s with cursor := s.cursor + 1#8 } := by
  rw [absorbByte_of_lt _ h, memXor_zero]

theorem absorbBytes_zeros {s : State} (n : Nat) (h : s.cursor.toNat + n < s.rate) :
    absorbBytes s (List.replicate n 0x00#8) = { s with cursor := BitVec.ofNat 8 (s.cursor.toNat + n) } := by
  induction n generalizing s with
  | zero => simp
  | succ n ih =>
    have hcursor := toNat_cursor_succ (s := s) (by omega)
    have hstep : (s.cursor + 1#8).toNat + n = s.cursor.toNat + (n + 1) := by omega
    rw [List.replicate_succ, absorbBytes_cons, absorbByte_zero_of_lt (by omega), ih (hstep.trans_lt h), hstep]

/-- Zeros up to the last byte of the window, and then that byte. -/
theorem absorbBytes_zeros_then_last {s : State} (b : Byte) (h : s.cursor.toNat < s.rate) :
    absorbBytes s (List.replicate (s.rate - 1 - s.cursor.toNat) 0x00#8 ++ [b]) =
      { s with lanes := permute (memXor s.lanes (s.rate - 1) b), cursor := 0#8 } := by
  have hsum : s.cursor.toNat + (s.rate - 1 - s.cursor.toNat) = s.rate - 1 := by omega
  have hlast : (BitVec.ofNat 8 (s.rate - 1)).toNat = s.rate - 1 := by
    have := s.rate_le
    rw [BitVec.toNat_ofNat]
    omega
  rw [absorbBytes_append, absorbBytes_zeros _ (by omega), hsum, absorbBytes_cons, absorbBytes_nil, absorbByte_of_fills]
  · simp only [hlast]
  · change (BitVec.ofNat 8 (s.rate - 1)).toNat + 1 = s.rate
    omega

/-! ### The pad block (R106) -/

theorem padBlock_of_sub_eq_one {cursor rate : Nat} (h : rate - cursor = 1) : padBlock cursor rate = [0x86#8] := by
  rw [padBlock, h]
  rfl

theorem padBlock_of_sub_eq_add_two {cursor rate n : Nat} (h : rate - cursor = n + 2) :
    padBlock cursor rate = 0x06#8 :: (List.replicate n 0x00#8 ++ [0x80#8]) := by
  have hzeros : List.replicate (n + 2) 0x00#8 = 0x00#8 :: (List.replicate n 0x00#8 ++ [0x00#8]) := by
    rw [← List.replicate_succ', ← List.replicate_succ]
  rw [padBlock, h, hzeros]
  simp [List.modify_eq_take_drop]

/-! ### The pad as two XORs (R107) -/

theorem laneAt_memXor_eq_xor (S : Lanes) {b : Nat} (hb : b < 200) (v : Byte) (i : Nat) :
    laneAt (memXor S b v) i = laneAt S i ^^^ if i = b / 8 then placeByte v (b % 8) else 0#64 := by
  rw [laneAt_memXor S hb]
  split
  · subst_vars; rfl
  · exact BitVec.xor_zero.symm

/-- Two XORs at one offset are one XOR there. -/
theorem memXor_memXor_same (S : Lanes) {b : Nat} (hb : b < 200) (v w : Byte) :
    memXor (memXor S b v) b w = memXor S b (v ^^^ w) := by
  apply lanes_ext
  intro i _
  simp only [laneAt_memXor_eq_xor _ hb]
  split
  · rw [placeByte_xor, BitVec.xor_assoc]
  · simp

/-- The lanes once the pad is XORed in, before the permutation. -/
def State.paddedLanes (s : State) : Lanes := memXor (memXor s.lanes s.cursor.toNat 0x06#8) (s.rate - 1) 0x80#8

theorem laneAt_paddedLanes {s : State} (h : s.cursor.toNat < s.rate) (i : Nat) :
    laneAt s.paddedLanes i =
      laneAt s.lanes i ^^^ (if i = s.cursor.toNat / 8 then placeByte 0x06#8 (s.cursor.toNat % 8) else 0#64) ^^^
        (if i = s.rate / 8 - 1 then 0x8000000000000000#64 else 0#64) := by
  have hrate := s.rate_le
  have hlanes : s.rate = 8 * (s.rate / 8) := s.mode.rate_eq_lanes
  have htop : (s.rate - 1) / 8 = s.rate / 8 - 1 := by omega
  have hbyte : (s.rate - 1) % 8 = 7 := by omega
  have hbit : placeByte 0x80#8 7 = 0x8000000000000000#64 := by decide
  rw [State.paddedLanes, laneAt_memXor_eq_xor _ (by omega), laneAt_memXor_eq_xor _ (by omega), htop, hbyte, hbit]

theorem absorbPad_eq {s : State} (h : s.cursor.toNat < s.rate) :
    absorbPad s = { s with lanes := permute s.paddedLanes, cursor := 0#8 } := by
  have hrate := s.rate_le
  rw [absorbPad]
  by_cases hfills : s.cursor.toNat + 1 = s.rate
  · have hsame : s.rate - 1 = s.cursor.toNat := by omega
    rw [padBlock_of_sub_eq_one (by omega), absorbBytes_cons, absorbBytes_nil, absorbByte_of_fills _ hfills,
      State.paddedLanes, hsame, memXor_memXor_same _ (by omega)]
    rfl
  · have hfirst := absorbByte_of_lt 0x06#8 (s := s) (by omega)
    have hcursor := toNat_cursor_absorbByte 0x06#8 h
    rw [if_neg hfills] at hcursor
    have hrest := absorbBytes_zeros_then_last 0x80#8 (cursor_absorbByte_lt 0x06#8 h)
    rw [hcursor, absorbByte_rate] at hrest
    rw [padBlock_of_sub_eq_add_two (n := s.rate - 1 - (s.cursor.toNat + 1)) (by omega), absorbBytes_cons, hrest, hfirst,
      State.paddedLanes]

/-- The pad ends exactly at the boundary (R108). -/
theorem permCount_padBlock {s : State} (h : s.cursor.toNat < s.rate) :
    permCount s (padBlock s.cursor.toNat s.rate) = 1 := by
  rw [(permCount_eq_div_and_cursor_eq_mod _ h).1, length_padBlock, Nat.add_sub_cancel' h.le,
    Nat.div_self (Nat.zero_lt_of_lt h)]

end Sys2Proof.Machine

namespace Sys2Proof

open Machine

/-- Settles O19: quotient and remainder of the count of bytes since CURSOR was last 0. -/
theorem absorbBytesCountsWindows : Obligations.AbsorbBytesCountsWindows := by
  intro s bytes more h
  obtain ⟨hcount, hcursor⟩ := permCount_eq_div_and_cursor_eq_mod bytes h
  exact ⟨hcount, hcursor, absorbBytes_nil s, fun _ => rfl, absorbBytes_append s bytes more⟩

/-- Settles O20, by induction on the length of the run. -/
theorem zeroBytesOnlyMoveCursor : Obligations.ZeroBytesOnlyMoveCursor := fun _ n h => absorbBytes_zeros n h

/-- Settles O21: both pad values meet in one byte exactly when padLen is 1. -/
theorem padBlockShape : Obligations.PadBlockShape := fun cursor rate _ =>
  ⟨length_padBlock cursor rate, padBlock_of_sub_eq_one, fun h => padBlock_of_sub_eq_add_two (by omega)⟩

/-- Settles O22: the zeros between the two pad bytes change no lane, and only the last byte fills the window. -/
theorem padIsTwoXorsAndOnePermutation : Obligations.PadIsTwoXorsAndOnePermutation := fun s h =>
  ⟨permCount_padBlock h, s.paddedLanes, fun i _ => laneAt_paddedLanes h i, rfl, absorbPad_eq h⟩

end Sys2Proof
end

section
/-! The outcomes of the commands (42_commands.md R121 to R124, R162), one equation for each under the condition it needs, and
with them the next states of INIT, FINISH and RESET. -/

namespace Sys2Proof.Machine

theorem Mode.size_mem (m : Mode) : m.size ∈ [224, 256, 384, 512] := by cases m <;> decide

theorem execInit_size (m : Mode) (s : State) :
    execInit m.size s = .next (respond .ok [] (s.zeroSession.configure m)) := by
  rw [execInit, Mode.ofSize_size]

theorem execInit_of_not_mem {size : Nat} (h : size ∉ [224, 256, 384, 512]) (s : State) :
    execInit size s = .next (raiseError .unsupportedDigestSize s.zeroSession.unconfigure) := by
  have hnone : Mode.ofSize size = none := (Mode.ofSize_eq_none_iff size).mpr fun m hm => h (hm ▸ m.size_mem)
  rw [execInit, hnone]

theorem execAbsorb_of_lt {s : State} (b : Byte) (hvalid : s.valid = true) (hcursor : s.cursor.toNat < s.rate) :
    execAbsorb b s = .next (respond .ok [] (s.noteAbsorb (absorbByte s b))) := by
  rw [execAbsorb, whenConfigured_of_valid hvalid, whenCursorInWindow_of_lt hcursor]

theorem execFinish_of_lt {s : State} (hvalid : s.valid = true) (hcursor : s.cursor.toNat < s.rate) :
    execFinish s =
      .next (respond .ok (squeeze (absorbPad s)) { (absorbPad s).zeroSession with after := .toSqueeze }) := by
  rw [execFinish, whenConfigured_of_valid hvalid, whenCursorInWindow_of_lt hcursor]

theorem execReset_of_valid {s : State} (hvalid : s.valid = true) :
    execReset s = .next (respond .ok [] s.zeroSession) := whenConfigured_of_valid hvalid _

/-- Every command but INIT needs a session (R120, R162). -/
theorem exec_of_not_valid {i : Instr} {s : State} (hi : ∀ size, i ≠ .init size) (hvalid : s.valid = false) :
    exec i s = .next (raiseError .notConfigured s) := by
  cases i with
  | init size => exact absurd rfl (hi size)
  | absorb b => rw [exec_absorb, execAbsorb, whenConfigured_of_not_valid hvalid]
  | finish => rw [exec_finish, execFinish, whenConfigured_of_not_valid hvalid]
  | reset => rw [exec_reset, execReset, whenConfigured_of_not_valid hvalid]

end Sys2Proof.Machine

namespace Sys2Proof

open Machine

/-- Settles O25: `Mode.ofSize` finds the mode of exactly the four sizes. -/
theorem initConfiguresOrRejects : Obligations.InitConfiguresOrRejects := by
  intro size s
  refine ⟨?_, fun h => execInit_of_not_mem h s, rfl, rfl⟩
  rintro m rfl
  exact execInit_size m s

/-- Settles O29: the pad is two XORs and one permutation, and the digest is read before the zeroing. -/
theorem finishReturnsTheDigest : Obligations.FinishReturnsTheDigest := by
  intro s hvalid hcursor
  rw [exec_finish, execFinish_of_lt hvalid hcursor, absorbPad_eq hcursor]
  rfl

/-- Settles O31: zeroing leaves MODE and VALID. -/
theorem resetZeroesTheSession : Obligations.ResetZeroesTheSession := fun _ => execReset_of_valid

end Sys2Proof
end

section
/-! A host that sends a sequence of words and takes each response (30_encoding.md R61), and the words of HASH sent so
(42_commands.md R127). Between two words all that is left of a command is the architectural state, and the sponge reads
nothing else: so a run over the words is followed in that state alone. -/

namespace Sys2Proof

theorem wellFormed_init_iff {size : Nat} : (Instr.init size).wellFormed = true ↔ size < 4096 := decide_eq_true_iff

theorem decode_encode {i : Instr} (h : i.wellFormed = true) : decode (encode i) = .ok i := by
  rw [decode_eq_ok_iff]
  cases i with
  | init size =>
    refine ⟨Laws.RowMatch.opField_append _ _, ?_⟩
    rw [encode, argField_append, BitVec.toNat_ofNat]
    exact Nat.mod_eq_of_lt (wellFormed_init_iff.mp h)
  | absorb byte =>
    refine ⟨Laws.RowMatch.opField_append _ _, ?_, ?_⟩
    · rw [encode, argField_append]
      exact BitVec.extractLsb'_append_eq_left
    · rw [encode, argField_append]
      exact BitVec.extractLsb'_append_eq_right
  | finish => exact ⟨by decide, by decide⟩
  | reset => exact ⟨by decide, by decide⟩

end Sys2Proof

namespace Sys2Proof.Machine

theorem runWord_encode {i : Instr} (h : i.wellFormed = true) (s : State) : runWord (encode i) s = exec i s :=
  runWord_of_ok (decode_encode h) s

/-! ### What the sponge reads -/

theorem arch_eq_iff {s t : State} :
    s.arch = t.arch ↔ s.lanes = t.lanes ∧ s.cursor = t.cursor ∧ s.mode = t.mode ∧ s.valid = t.valid := by
  simp only [State.arch, Prod.mk.injEq]

theorem rate_eq_of_arch_eq {s t : State} (h : s.arch = t.arch) : s.rate = t.rate := by
  obtain ⟨-, -, hmode, -⟩ := arch_eq_iff.mp h
  rw [State.rate, State.rate, hmode]

theorem valid_eq_of_arch_eq {s t : State} (h : s.arch = t.arch) : s.valid = t.valid := by
  obtain ⟨-, -, -, hvalid⟩ := arch_eq_iff.mp h
  exact hvalid

theorem cursor_lt_rate_of_arch_eq {s t : State} (h : s.arch = t.arch) (ht : t.cursor.toNat < t.rate) :
    s.cursor.toNat < s.rate := by
  obtain ⟨-, hcursor, -, -⟩ := arch_eq_iff.mp h
  rwa [hcursor, rate_eq_of_arch_eq h]

theorem arch_absorbByte_congr {s t : State} (h : s.arch = t.arch) (b : Byte) :
    (absorbByte s b).arch = (absorbByte t b).arch := by
  have hrate := rate_eq_of_arch_eq h
  obtain ⟨hlanes, hcursor, hmode, hvalid⟩ := arch_eq_iff.mp h
  simp only [absorbByte, hrate, hlanes, hcursor]
  split <;> simp only [State.arch, hmode, hvalid]

theorem arch_absorbBytes_congr {s t : State} (h : s.arch = t.arch) (bs : List Byte) :
    (absorbBytes s bs).arch = (absorbBytes t bs).arch := by
  induction bs generalizing s t with
  | nil => exact h
  | cons b bs ih => exact ih (arch_absorbByte_congr h b)

theorem arch_absorbPad_congr {s t : State} (h : s.arch = t.arch) : (absorbPad s).arch = (absorbPad t).arch := by
  obtain ⟨-, hcursor, -, -⟩ := arch_eq_iff.mp h
  rw [absorbPad, absorbPad, hcursor, rate_eq_of_arch_eq h]
  exact arch_absorbBytes_congr h _

theorem squeeze_congr {s t : State} (h : s.arch = t.arch) : squeeze s = squeeze t := by
  obtain ⟨hlanes, -, hmode, -⟩ := arch_eq_iff.mp h
  rw [squeeze, squeeze, hlanes, hmode]

@[simp] theorem dropInput_arch (s : State) : s.dropInput.arch = s.arch := rfl

/-! ### Every command answers -/

/-- `noteAbsorb` writes AFTER only. -/
theorem noteAbsorb_eq (s t : State) : s.noteAbsorb t = { t with after := (s.noteAbsorb t).after } := by
  rw [State.noteAbsorb]
  split <;> rfl

@[simp] theorem noteAbsorb_phase (s t : State) : (s.noteAbsorb t).phase = t.phase := by rw [noteAbsorb_eq]
@[simp] theorem noteAbsorb_inputs (s t : State) : (s.noteAbsorb t).inputs = t.inputs := by rw [noteAbsorb_eq]
@[simp] theorem noteAbsorb_arch (s t : State) : (s.noteAbsorb t).arch = t.arch := by rw [noteAbsorb_eq]; rfl

/-- A completed command has answered, with PHASE and the host's inputs as they were (R120). -/
theorem exec_answers {i : Instr} {s t : State} (h : exec i s = .next t) :
    t.phase = s.phase ∧ t.inputs = s.inputs ∧ ∃ r, t.rsp = some r := by
  cases i with
  | init size =>
    rcases execInit_cases size s with ⟨m, -, e⟩ | ⟨-, e⟩ <;> cases e.symm.trans h
    · exact ⟨rfl, rfl, _, rfl⟩
    · exact ⟨rfl, rfl, _, rfl⟩
  | absorb b =>
    rcases execAbsorb_cases b s with ⟨-, e⟩ | ⟨-, -, e⟩ | ⟨-, -, e⟩ <;> cases e.symm.trans h
    · exact ⟨rfl, rfl, _, rfl⟩
    · exact ⟨by simp, by simp, _, rfl⟩
  | finish =>
    rcases execFinish_cases s with ⟨-, e⟩ | ⟨-, -, e⟩ | ⟨-, -, e⟩ <;> cases e.symm.trans h
    · exact ⟨rfl, rfl, _, rfl⟩
    · exact ⟨by simp [absorbPad], by simp [absorbPad], _, rfl⟩
  | reset =>
    rcases execReset_cases s with ⟨-, e⟩ | ⟨-, e⟩ <;> cases e.symm.trans h
    · exact ⟨rfl, rfl, _, rfl⟩
    · exact ⟨rfl, rfl, _, rfl⟩

theorem runWord_answers {w : CmdWord} {s t : State} (h : runWord w s = .next t) :
    t.phase = s.phase ∧ t.inputs = s.inputs ∧ ∃ r, t.rsp = some r := by
  cases hw : decode w with
  | ok i => exact exec_answers ((runWord_of_ok hw s).symm.trans h)
  | error e =>
    cases (runWord_of_error hw s).symm.trans h
    exact ⟨rfl, rfl, _, rfl⟩

/-! ### A word and its response -/

theorem core_run_one (s : State) : Host.Core.run Sys2Proof.core 1 s = step s := by
  cases hs : step s with
  | next t => exact core_run_succ 0 hs
  | fault r => simp [Host.Core.run, core, hs]
  | refused r => simp [Host.Core.run, core, hs]

/-- Two runs, one after the other. -/
theorem core_run_trans {s t : State} {o : Host.Outcome State Fault Refusal} {k n total : Nat}
    (hfirst : Host.Core.run Sys2Proof.core k s = .next t) (hsecond : Host.Core.run Sys2Proof.core n t = o)
    (htotal : total = k + n) : Host.Core.run Sys2Proof.core total s = o := by
  subst htotal
  induction k generalizing s with
  | zero => cases hfirst; rw [Nat.zero_add, hsecond]
  | succ k ih =>
    cases hs : step s with
    | next u =>
      rw [core_run_succ k hs] at hfirst
      rw [Nat.add_right_comm, core_run_succ _ hs, ih hfirst]
    | fault r => simp [Host.Core.run, core, hs] at hfirst
    | refused r => simp [Host.Core.run, core, hs] at hfirst

/-- The engine takes a word at the next step that shows one, and `is` is what the host drives from that step on. -/
structure State.ReadyFor (s : State) (is : List PortInput) : Prop where
  phase_eq : s.phase = .idle
  rsp_eq : s.rsp = none
  inputs_eq : s.inputs = is

theorem State.ReadyFor.cmdReady {s : State} {is : List PortInput} (h : s.ReadyFor is) : s.cmdReady = true := by
  simp [State.cmdReady, h.phase_eq, h.rsp_eq]

/-- The step that shows a word runs it. -/
theorem run_one_of_send {s : State} {w : CmdWord} {is : List PortInput} (h : s.ReadyFor (.send w :: is)) :
    Host.Core.run Sys2Proof.core 1 s = runWord w s.dropInput := by
  have hinput : s.input = .send w := by rw [State.input, h.inputs_eq]; rfl
  rw [core_run_one, step]
  exact portStep_accepts h.cmdReady (by rw [hinput]; rfl) (by rw [hinput]; rfl)

/-- The step that takes a response takes nothing else. -/
theorem run_one_of_take {s : State} {r : Response} {is : List PortInput} (hrsp : s.rsp = some r)
    (hinputs : s.inputs = .take :: is) :
    Host.Core.run Sys2Proof.core 1 s = .next { s with rsp := none, inputs := is } := by
  have hinput : s.input = .take := by rw [State.input, hinputs]; rfl
  have hstep : step s = .next { s with rsp := none, inputs := is } := by
    simp [step, portStep, hinput, hrsp, State.dropInput, hinputs]
  exact (core_run_one s).trans hstep

/-- A word and its response: the engine is ready again, and keeps of the command its architectural state. -/
theorem run_two_of_send_take {s t : State} {w : CmdWord} {is : List PortInput}
    (hs : s.ReadyFor (.send w :: .take :: is)) (hrun : runWord w s.dropInput = .next t) :
    ∃ u : State, Host.Core.run Sys2Proof.core 2 s = .next u ∧ u.ReadyFor is ∧ u.arch = t.arch := by
  obtain ⟨hphase, hinputs, r, hr⟩ := runWord_answers hrun
  have htake : t.inputs = .take :: is := by rw [hinputs, dropInput_inputs, hs.inputs_eq, List.tail_cons]
  exact ⟨{ t with rsp := none, inputs := is },
    core_run_trans ((run_one_of_send hs).trans hrun) (run_one_of_take hr htake) rfl,
    ⟨hphase.trans hs.phase_eq, rfl, rfl⟩, rfl⟩

theorem sendAll_cons (w : CmdWord) (ws : List CmdWord) : sendAll (w :: ws) = .send w :: .take :: sendAll ws := rfl

theorem sendAll_append (vs ws : List CmdWord) : sendAll (vs ++ ws) = sendAll vs ++ sendAll ws := List.flatMap_append

/-! ### The words of HASH for an accepted size -/

theorem run_init {s : State} {m : Mode} {is : List PortInput}
    (hs : s.ReadyFor (.send (encode (.init m.size)) :: .take :: is)) :
    ∃ u : State, Host.Core.run Sys2Proof.core 2 s = .next u ∧ u.ReadyFor is ∧ u.arch = (freshSession m).arch := by
  have hwf : (Instr.init m.size).wellFormed = true := by cases m <;> decide
  have hinit := (runWord_encode hwf s.dropInput).trans (execInit_size m s.dropInput)
  obtain ⟨u, hrun, hu, harch⟩ := run_two_of_send_take hs hinit
  exact ⟨u, hrun, hu, harch⟩

/-- The ABSORB words of a row of bytes absorb it (R125), two steps a byte. -/
theorem run_absorbWords {s : State} {is : List PortInput} (bs : List Byte)
    (hs : s.ReadyFor (sendAll (absorbWords bs) ++ is)) (hvalid : s.valid = true) (hcursor : s.cursor.toNat < s.rate) :
    ∃ u : State, Host.Core.run Sys2Proof.core (2 * bs.length) s = .next u ∧ u.ReadyFor is ∧
      u.arch = (absorbBytes s bs).arch := by
  induction bs generalizing s with
  | nil => exact ⟨s, rfl, hs, rfl⟩
  | cons b bs ih =>
    have habsorb := (runWord_encode (i := .absorb b) rfl s.dropInput).trans
      (execAbsorb_of_lt (s := s.dropInput) b hvalid hcursor)
    obtain ⟨u, hrun, hu, harch⟩ := run_two_of_send_take hs habsorb
    replace harch : u.arch = (absorbByte s b).arch :=
      harch.trans ((noteAbsorb_arch _ _).trans (arch_absorbByte_congr (dropInput_arch s) b))
    have hvalid' : u.valid = true := (valid_eq_of_arch_eq harch).trans ((absorbByte_valid s b).trans hvalid)
    have hcursor' : u.cursor.toNat < u.rate := cursor_lt_rate_of_arch_eq harch (cursor_absorbByte_lt b hcursor)
    obtain ⟨v, hrest, hv, hvarch⟩ := ih hu hvalid' hcursor'
    exact ⟨v, core_run_trans hrun hrest (by rw [List.length_cons]; omega), hv,
      hvarch.trans (arch_absorbBytes_congr harch bs)⟩

/-- FINISH answers with the digest and leaves a fresh session of the same size (R123). -/
theorem run_finish {s : State} {is : List PortInput} (hs : s.ReadyFor (.send (encode .finish) :: is))
    (hvalid : s.valid = true) (hcursor : s.cursor.toNat < s.rate) :
    ∃ t : State, Host.Core.run Sys2Proof.core 1 s = .next t ∧ t.rsp = some (.ofPair .ok (squeeze (absorbPad s))) ∧
      t.arch = (freshSession s.mode).arch := by
  have hfinish := (runWord_encode (i := .finish) rfl s.dropInput).trans
    (execFinish_of_lt (s := s.dropInput) hvalid hcursor)
  have hdigest : squeeze (absorbPad s.dropInput) = squeeze (absorbPad s) :=
    squeeze_congr (arch_absorbPad_congr (dropInput_arch s))
  refine ⟨_, (run_one_of_send hs).trans hfinish, by rw [respond_rsp, hdigest], ?_⟩
  simp [arch_eq_iff, absorbPad, hvalid, freshSession]

/-- HASH for an accepted size: the last answer is the digest (R111, R127). -/
theorem run_hashWords {s : State} {m : Mode} (msg : List Byte)
    (hs : s.ReadyFor (sendAll (encode (.init m.size) :: (absorbWords msg ++ [encode .finish])))) :
    ∃ t : State, Host.Core.run Sys2Proof.core (2 * msg.length + 3) s = .next t ∧
      t.rsp = some (.ofPair .ok (hashOf m msg)) ∧ t.arch = (freshSession m).arch := by
  rw [sendAll_cons, sendAll_append] at hs
  obtain ⟨u, hinit, hu, huarch⟩ := run_init hs
  have hstart : (freshSession m).cursor.toNat < (freshSession m).rate := Nat.zero_lt_of_lt m.ob_lt_rate
  obtain ⟨v, habsorb, hv, hvarch⟩ :=
    run_absorbWords msg hu (valid_eq_of_arch_eq huarch) (cursor_lt_rate_of_arch_eq huarch hstart)
  replace hvarch := hvarch.trans (arch_absorbBytes_congr huarch msg)
  have hvalid : v.valid = true := (valid_eq_of_arch_eq hvarch).trans (absorbBytes_valid _ msg)
  have hcursor : v.cursor.toNat < v.rate :=
    cursor_lt_rate_of_arch_eq hvarch (by simpa using cursor_absorbBytes_lt msg hstart)
  obtain ⟨t, hfinish, hrsp, harch⟩ := run_finish hv hvalid hcursor
  obtain ⟨-, -, hmode, -⟩ := arch_eq_iff.mp hvarch
  refine ⟨t, core_run_trans hinit (core_run_trans habsorb hfinish rfl) (by omega), ?_, ?_⟩
  · rw [hrsp, squeeze_congr (arch_absorbPad_congr hvarch), hashOf]
  · rw [harch, hmode, absorbBytes_mode, freshSession_mode]

/-! ### The words of HASH for a rejected size -/

/-- The word of a command that is not INIT. -/
def NeedsSession (w : CmdWord) : Prop := ∃ i : Instr, decode w = .ok i ∧ ∀ size, i ≠ .init size

theorem needsSession_encode {i : Instr} (hwf : i.wellFormed = true) (hi : ∀ size, i ≠ .init size) :
    NeedsSession (encode i) := ⟨i, decode_encode hwf, hi⟩

theorem NeedsSession.runWord_of_not_valid {w : CmdWord} (hw : NeedsSession w) {s : State} (hvalid : s.valid = false) :
    runWord w s = .next (raiseError .notConfigured s) := by
  obtain ⟨i, hdecode, hi⟩ := hw
  rw [runWord_of_ok hdecode, exec_of_not_valid hi hvalid]

/-- Without a session every such word gets NotConfigured for its answer, however many came before it (R162, R167). -/
theorem run_needsSession {ws : List CmdWord} {k : Nat} {s : State} (hws : ∀ w ∈ ws, NeedsSession w)
    (hk : k < ws.length) (hs : s.ReadyFor (sendAll ws)) (hvalid : s.valid = false) :
    ∃ t : State, Host.Core.run Sys2Proof.core (2 * k + 1) s = .next t ∧ t.rsp = some (.ofPair .notConfigured []) := by
  induction ws generalizing k s with
  | nil => cases hk
  | cons w ws ih =>
    have hword := (hws w List.mem_cons_self).runWord_of_not_valid (s := s.dropInput) hvalid
    cases k with
    | zero => exact ⟨_, (run_one_of_send hs).trans hword, rfl⟩
    | succ k =>
      obtain ⟨u, hrun, hu, harch⟩ := run_two_of_send_take hs hword
      obtain ⟨t, hrest, hrsp⟩ := ih (fun v hv => hws v (List.mem_cons_of_mem w hv)) (Nat.lt_of_succ_lt_succ hk) hu
        ((valid_eq_of_arch_eq harch).trans hvalid)
      exact ⟨t, core_run_trans hrun hrest (by omega), hrsp⟩

theorem needsSession_of_mem_hashTail {msg : List Byte} {w : CmdWord} (hw : w ∈ absorbWords msg ++ [encode .finish]) :
    NeedsSession w := by
  rcases List.mem_append.mp hw with hw | hw
  · obtain ⟨b, -, rfl⟩ := List.mem_map.mp hw
    exact needsSession_encode rfl nofun
  · rw [List.mem_singleton.mp hw]
    exact needsSession_encode rfl nofun

/-- HASH for any other size: INIT leaves no session, so no word after it finds one (R127, R161). -/
theorem run_rejectedHashWords {s : State} {size : Nat} (msg : List Byte) (hwf : size < 4096)
    (hsize : size ∉ [224, 256, 384, 512])
    (hs : s.ReadyFor (sendAll (encode (.init size) :: (absorbWords msg ++ [encode .finish])))) :
    (∃ t : State, Host.Core.run Sys2Proof.core 1 s = .next t ∧ t.rsp = some (.ofPair .unsupportedDigestSize [])) ∧
      ∀ k ≤ msg.length, ∃ t : State, Host.Core.run Sys2Proof.core (2 * k + 3) s = .next t ∧
        t.rsp = some (.ofPair .notConfigured []) := by
  have hinit := (runWord_encode (wellFormed_init_iff.mpr hwf) s.dropInput).trans (execInit_of_not_mem hsize s.dropInput)
  refine ⟨⟨_, (run_one_of_send hs).trans hinit, rfl⟩, fun k hk => ?_⟩
  obtain ⟨u, hrun, hu, harch⟩ := run_two_of_send_take hs hinit
  have hlength : k < (absorbWords msg ++ [encode .finish]).length := by simpa [absorbWords, Nat.lt_succ_iff] using hk
  obtain ⟨t, hrest, hrsp⟩ :=
    run_needsSession (fun _ => needsSession_of_mem_hashTail) hlength hu (valid_eq_of_arch_eq harch)
  exact ⟨t, core_run_trans hrun hrest (by omega), hrsp⟩

end Sys2Proof.Machine

namespace Sys2Proof

open Machine

/-- Settles O42: an accepted size runs the sponge as `hashOf` does, any other leaves no session for the words after it. -/
theorem hashCommandSequence : Obligations.HashCommandSequence := by
  intro s size msg mode hidle hrsp hsize
  refine ⟨_, if_pos hsize, rfl, fun hinputs => ⟨?_, fun hrejected => ?_⟩, rfl, rfl, rfl⟩
  · rintro m rfl
    exact run_hashWords msg ⟨hidle, hrsp, hinputs⟩
  · exact run_rejectedHashWords msg hsize hrejected ⟨hidle, hrsp, hinputs⟩

end Sys2Proof
end

section
/-! The commands an engine rejects with no change of state (60_exceptions.md R162, R163). The illegal words are the ones
that spell no command; the fields that decide it are read here as numbers of the whole word. -/

namespace Sys2Proof

open Machine

/-! ### The conditions of R63 and R65 as numbers -/

theorem opField_eq_iff {w : CmdWord} {op : BitVec 4} : opField w = op ↔ w.toNat / 4096 = op.toNat := by
  rw [← BitVec.toNat_inj, opField_toNat]

theorem argField_eq_zero_iff {w : CmdWord} : argField w = 0#12 ↔ w.toNat % 4096 = 0 := by
  rw [← BitVec.toNat_inj, argField_toNat, BitVec.toNat_zero]

/-- The reserved bits of ABSORB, `arg[11:8]`, are bits 11 to 8 of the word. -/
theorem reservedBits_eq_zero_iff {w : CmdWord} : (argField w).extractLsb' 8 4 = 0#4 ↔ w.toNat / 256 % 16 = 0 := by
  rw [← BitVec.toNat_inj, BitVec.extractLsb'_toNat, argField_toNat, BitVec.toNat_zero, Nat.shiftRight_eq_div_pow]
  omega

/-! ### Legal and illegal words -/

/-- The fields that give some command: each command's condition without its operand. -/
theorem exists_hasFields_iff {op : BitVec 4} {arg : BitVec 12} :
    (∃ i : Instr, i.HasFields op arg) ↔
      op = 0x1#4 ∨ (op = 0x2#4 ∧ arg.extractLsb' 8 4 = 0#4) ∨
        (op = 0x3#4 ∧ arg = 0#12) ∨ (op = 0x4#4 ∧ arg = 0#12) := by
  constructor
  · rintro ⟨i, hi⟩
    cases i with
    | init size =>
      obtain ⟨hop, -⟩ := hi
      exact .inl hop
    | absorb byte =>
      obtain ⟨hop, hreserved, -⟩ := hi
      exact .inr (.inl ⟨hop, hreserved⟩)
    | finish => exact .inr (.inr (.inl hi))
    | reset => exact .inr (.inr (.inr hi))
  · rintro (hinit | ⟨hop, hreserved⟩ | hfinish | hreset)
    · exact ⟨.init _, hinit, rfl⟩
    · exact ⟨.absorb _, hop, hreserved, rfl⟩
    · exact ⟨.finish, hfinish⟩
    · exact ⟨.reset, hreset⟩

theorem exists_decode_eq_ok_iff {w : CmdWord} :
    (∃ i, decode w = .ok i) ↔
      w.toNat / 4096 = 1 ∨ (w.toNat / 4096 = 2 ∧ w.toNat / 256 % 16 = 0) ∨
        (w.toNat / 4096 = 3 ∧ w.toNat % 4096 = 0) ∨ (w.toNat / 4096 = 4 ∧ w.toNat % 4096 = 0) := by
  simp only [decode_eq_ok_iff, exists_hasFields_iff, opField_eq_iff, argField_eq_zero_iff, reservedBits_eq_zero_iff,
    BitVec.reduceToNat]

theorem exists_decode_eq_error_iff {w : CmdWord} : (∃ e, decode w = .error e) ↔ ¬ ∃ i, decode w = .ok i := by
  cases decode w <;> simp

/-- Settles O34: the illegal words are the ones outside the opcode map, and IllegalCommand is raised before VALID is
looked at. -/
theorem illegalWordsChangeNothing : Obligations.IllegalWordsChangeNothing := by
  intro w s
  refine ⟨?_, fun ⟨_, h⟩ => runWord_of_error h s, rfl⟩
  rw [exists_decode_eq_error_iff, exists_decode_eq_ok_iff]
  omega

/-- Settles O32: VALID is checked before the command has any effect of its own. -/
theorem unconfiguredRaisesNotConfigured : Obligations.UnconfiguredRaisesNotConfigured :=
  fun _ _ hvalid hi => ⟨exec_of_not_valid hi hvalid, rfl⟩

end Sys2Proof
end

section
/-! Encoding and decoding undo each other (30_encoding.md R62 to R66). `decode_encode` gives one direction; the other
reads the two fields of a word, which give the word back. -/

namespace Sys2Proof

/-- The fields of a command give the operand, and with it the two fields of its encoding. -/
theorem wellFormed_and_encode_of_hasFields {op : BitVec 4} {arg : BitVec 12} {i : Instr} (h : i.HasFields op arg) :
    i.wellFormed = true ∧ encode i = op ++ arg := by
  cases i with
  | init size =>
    obtain ⟨rfl, rfl⟩ := h
    exact ⟨wellFormed_init_iff.mpr arg.isLt, by rw [encode, BitVec.ofNat_toNat, BitVec.setWidth_eq]⟩
  | absorb byte =>
    obtain ⟨rfl, hreserved, rfl⟩ := h
    have harg : 0x0#4 ++ arg.extractLsb' 0 8 = arg := by
      rw [← hreserved, BitVec.extractLsb'_append_extractLsb'_eq_extractLsb' (by omega), BitVec.extractLsb'_eq_self]
    exact ⟨rfl, by rw [encode, harg]⟩
  | finish =>
    obtain ⟨rfl, rfl⟩ := h
    exact ⟨rfl, rfl⟩
  | reset =>
    obtain ⟨rfl, rfl⟩ := h
    exact ⟨rfl, rfl⟩

theorem wellFormed_and_encode_of_decode {w : CmdWord} {i : Instr} (h : decode w = .ok i) :
    i.wellFormed = true ∧ encode i = w := by
  obtain ⟨hwf, hencode⟩ := wellFormed_and_encode_of_hasFields (decode_eq_ok_iff.mp h)
  exact ⟨hwf, hencode.trans (word_eq_op_append_arg w)⟩

/-- Settles O1: seven fixed words, so evaluation decides it. -/
theorem writtenWordsDecode : Obligations.WrittenWordsDecode := by
  unfold Obligations.WrittenWordsDecode
  decide

/-- Settles O2: the encoding's fields are the command's. -/
theorem decodeInvertsEncode : Obligations.DecodeInvertsEncode := fun _ => decode_encode

/-- Settles O3: a word is its two fields, and they are those of the command's encoding. -/
theorem encodeInvertsDecode : Obligations.EncodeInvertsDecode := fun _ _ => wellFormed_and_encode_of_decode

end Sys2Proof
end

section
/-! What a command can do, said once for all four (42_commands.md R120 to R124): the six ways to complete, and the one
way to stop. The frame of the commands, their responses and the part of R34 they keep are read off it, case by case.
-/

namespace Sys2Proof.Machine

/-! ### Fields of the shared operations' results -/

@[simp] theorem noteAbsorb_lanes (s t : State) : (s.noteAbsorb t).lanes = t.lanes := by rw [noteAbsorb_eq]
@[simp] theorem noteAbsorb_cursor (s t : State) : (s.noteAbsorb t).cursor = t.cursor := by rw [noteAbsorb_eq]
@[simp] theorem noteAbsorb_mode (s t : State) : (s.noteAbsorb t).mode = t.mode := by rw [noteAbsorb_eq]
@[simp] theorem noteAbsorb_valid (s t : State) : (s.noteAbsorb t).valid = t.valid := by rw [noteAbsorb_eq]
@[simp] theorem noteAbsorb_rnd (s t : State) : (s.noteAbsorb t).rnd = t.rnd := by rw [noteAbsorb_eq]
@[simp] theorem noteAbsorb_rate (s t : State) : (s.noteAbsorb t).rate = t.rate := by simp [State.rate]

theorem noteAbsorb_of_lt {s : State} (t : State) (h : s.cursor.toNat + 1 < s.rate) : s.noteAbsorb t = t :=
  if_neg fun hfills => h.ne ((fillsWindow_iff s).mp hfills)

theorem noteAbsorb_of_fills {s : State} (t : State) (h : s.cursor.toNat + 1 = s.rate) :
    s.noteAbsorb t = { t with after := .toIdle } := if_pos ((fillsWindow_iff s).mpr h)

@[simp] theorem absorbPad_mode (s : State) : (absorbPad s).mode = s.mode := absorbBytes_mode ..
@[simp] theorem absorbPad_valid (s : State) : (absorbPad s).valid = s.valid := absorbBytes_valid ..
@[simp] theorem absorbPad_phase (s : State) : (absorbPad s).phase = s.phase := absorbBytes_phase ..
@[simp] theorem absorbPad_rnd (s : State) : (absorbPad s).rnd = s.rnd := absorbBytes_rnd ..
@[simp] theorem absorbPad_inputs (s : State) : (absorbPad s).inputs = s.inputs := absorbBytes_inputs ..

theorem cursor_lt_rate_of_eq_zero {s : State} (h : s.cursor = 0#8) : s.cursor.toNat < s.rate := by
  rw [h]
  exact Nat.zero_lt_of_lt s.mode.ob_lt_rate

/-! ### The outcomes of a command -/

/-- The command `i`, run in `s`, completes in `t`: accepted and rejected INIT (R121), NotConfigured (R162), and
ABSORB, FINISH and RESET in a configured engine (R122 to R124). -/
inductive Completes (s : State) : Instr → State → Prop
  | configured (m : Mode) : Completes s (.init m.size) (respond .ok [] (s.zeroSession.configure m))
  | rejected {size : Nat} (hsize : ∀ m : Mode, size ≠ m.size) :
      Completes s (.init size) (raiseError .unsupportedDigestSize s.zeroSession.unconfigure)
  | notConfigured {i : Instr} (hi : ∀ size, i ≠ .init size) (hvalid : s.valid = false) :
      Completes s i (raiseError .notConfigured s)
  | absorbed (b : Byte) (hvalid : s.valid = true) (hcursor : s.cursor.toNat < s.rate) :
      Completes s (.absorb b) (respond .ok [] (s.noteAbsorb (absorbByte s b)))
  | finished (hvalid : s.valid = true) (hcursor : s.cursor.toNat < s.rate) :
      Completes s .finish
        (respond .ok (squeeze (absorbPad s)) { (absorbPad s).zeroSession with after := .toSqueeze })
  | zeroed (hvalid : s.valid = true) : Completes s .reset (respond .ok [] s.zeroSession)

/-- The precondition of AbsorbByte or PadBlock fails for a command that needs it (R101, R106; log 5). -/
def OutsideWindow (i : Instr) (s : State) : Prop :=
  ((∃ b, i = .absorb b) ∨ i = .finish) ∧ s.valid = true ∧ s.rate ≤ s.cursor.toNat

/-- A command completes, or it stops outside the window. -/
theorem exec_cases (i : Instr) (s : State) :
    (∃ t, Completes s i t ∧ exec i s = .next t) ∨
      (OutsideWindow i s ∧ exec i s = .fault .cursorOutsideWindow) := by
  cases i with
  | init size =>
    rcases execInit_cases size s with ⟨m, rfl, he⟩ | ⟨hsize, he⟩
    · exact .inl ⟨_, .configured m, he⟩
    · exact .inl ⟨_, .rejected hsize, he⟩
  | absorb b =>
    rcases execAbsorb_cases b s with ⟨hvalid, he⟩ | ⟨hvalid, hcursor, he⟩ | ⟨hvalid, hcursor, he⟩
    · exact .inl ⟨_, .notConfigured nofun hvalid, he⟩
    · exact .inl ⟨_, .absorbed b hvalid hcursor, he⟩
    · exact .inr ⟨⟨.inl ⟨b, rfl⟩, hvalid, hcursor⟩, he⟩
  | finish =>
    rcases execFinish_cases s with ⟨hvalid, he⟩ | ⟨hvalid, hcursor, he⟩ | ⟨hvalid, hcursor, he⟩
    · exact .inl ⟨_, .notConfigured nofun hvalid, he⟩
    · exact .inl ⟨_, .finished hvalid hcursor, he⟩
    · exact .inr ⟨⟨.inr rfl, hvalid, hcursor⟩, he⟩
  | reset =>
    rcases execReset_cases s with ⟨hvalid, he⟩ | ⟨hvalid, he⟩
    · exact .inl ⟨_, .notConfigured nofun hvalid, he⟩
    · exact .inl ⟨_, .zeroed hvalid, he⟩

theorem completes_of_exec {i : Instr} {s t : State} (h : exec i s = .next t) : Completes s i t := by
  rcases exec_cases i s with ⟨u, hu, he⟩ | ⟨-, he⟩
  · cases he.symm.trans h
    exact hu
  · cases he.symm.trans h

/-- A command that completes does not need the window, or has CURSOR in it. -/
theorem Completes.not_outsideWindow {i : Instr} {s t : State} (h : Completes s i t) : ¬ OutsideWindow i s := by
  rintro ⟨hi, hvalid, hrate⟩
  cases h with
  | configured m => simp at hi
  | rejected hsize => simp at hi
  | notConfigured hi' hunconfigured => simp [hunconfigured] at hvalid
  | absorbed b hvalid' hcursor => exact absurd hcursor (Nat.not_lt.mpr hrate)
  | finished hvalid' hcursor => exact absurd hcursor (Nat.not_lt.mpr hrate)
  | zeroed hvalid' => simp at hi

theorem exec_eq_fault_iff {i : Instr} {s : State} :
    exec i s = .fault .cursorOutsideWindow ↔ OutsideWindow i s := by
  rcases exec_cases i s with ⟨t, ht, he⟩ | ⟨hout, he⟩
  · simp [he, ht.not_outsideWindow]
  · simp [he, hout]

theorem exec_ne_refused (i : Instr) (s : State) (r : Refusal) : exec i s ≠ .refused r := by
  rcases exec_cases i s with ⟨t, -, he⟩ | ⟨-, he⟩ <;> simp [he]

/-- With R34 (a) no command stops. -/
theorem exec_continues (i : Instr) {s : State} (h : s.cursorBelowRate) : Continues (exec i s) := by
  rcases exec_cases i s with ⟨t, -, he⟩ | ⟨⟨-, hvalid, hrate⟩, -⟩
  · exact ⟨t, he⟩
  · exact absurd (h hvalid) (Nat.not_lt.mpr hrate)

/-! ### Responses -/

theorem digest_len (s : State) : (Response.ofPair .ok (squeeze s)).len.toNat = s.mode.ob := by
  rw [ofPair_len _ _ (length_squeeze s ▸ s.mode.ob_le), length_squeeze]

/-- Every command leaves a legal response; only FINISH in a configured engine gives it a payload, of OB bytes. -/
theorem Completes.response {i : Instr} {s t : State} (h : Completes s i t) :
    ∃ r, t.rsp = some r ∧ r.Legal ∧
      if i = .finish ∧ s.valid = true then r.status = .ok ∧ r.len.toNat = s.mode.ob else r.len = 0#7 := by
  cases h with
  | configured m => exact ⟨_, rfl, legal_empty _, by rw [if_neg (by simp)]; rfl⟩
  | rejected hsize => exact ⟨_, rfl, legal_empty _, by rw [if_neg (by simp)]; rfl⟩
  | notConfigured hi hvalid => exact ⟨_, rfl, legal_empty _, by rw [if_neg (by simp [hvalid])]; rfl⟩
  | absorbed b hvalid hcursor => exact ⟨_, rfl, legal_empty _, by rw [if_neg (by simp)]; rfl⟩
  | finished hvalid hcursor =>
    refine ⟨_, rfl, legal_digest _, ?_⟩
    rw [if_pos ⟨rfl, hvalid⟩, digest_len, absorbPad_mode]
    exact ⟨rfl, rfl⟩
  | zeroed hvalid => exact ⟨_, rfl, legal_empty _, by rw [if_neg (by simp)]; rfl⟩

theorem runWord_response {w : CmdWord} {s t : State} (h : runWord w s = .next t) :
    ∃ r, t.rsp = some r ∧ r.Legal ∧
      if decode w = .ok .finish ∧ s.valid = true then r.status = .ok ∧ r.len.toNat = s.mode.ob else r.len = 0#7 := by
  cases hw : decode w with
  | ok i => simpa using (completes_of_exec ((runWord_of_ok hw s).symm.trans h)).response
  | error e =>
    cases (runWord_of_error hw s).symm.trans h
    exact ⟨_, rfl, legal_empty _, by rw [if_neg (by simp)]; rfl⟩

/-! ### R34 between commands -/

/-- A configured idle engine needs CURSOR in the window only (R34). -/
theorem idleInv_of_valid {s : State} (hvalid : s.valid = true) (hcursor : s.cursor.toNat < s.rate)
    (hphase : s.phase = .idle) (hrnd : s.rnd = 0) : s.IdleInv :=
  ⟨fun _ => hcursor, fun hunconfigured => by simp [hunconfigured] at hvalid, hphase, hrnd⟩

theorem Completes.idleInv {i : Instr} {s t : State} (h : Completes s i t) (hs : s.IdleInv) : t.IdleInv := by
  have ⟨_, _, hphase, hrnd⟩ := hs
  cases h with
  | configured m => exact idleInv_of_valid rfl (cursor_lt_rate_of_eq_zero rfl) hphase hrnd
  | rejected hsize => exact ⟨nofun, fun _ => ⟨rfl, rfl, rfl⟩, hphase, hrnd⟩
  | notConfigured hi hvalid => exact hs
  | absorbed b hvalid hcursor =>
    exact idleInv_of_valid (by simpa using hvalid) (by simpa using cursor_absorbByte_lt b hcursor)
      (by simpa using hphase) (by simpa using hrnd)
  | finished hvalid hcursor =>
    exact idleInv_of_valid (by simpa using hvalid) (cursor_lt_rate_of_eq_zero rfl) (by simpa using hphase)
      (by simpa using hrnd)
  | zeroed hvalid => exact idleInv_of_valid hvalid (cursor_lt_rate_of_eq_zero rfl) hphase hrnd

/-- A completed word leaves an idle engine that meets the invariant (R34, R69). -/
theorem runWord_keeps_inv {w : CmdWord} {s t : State} (h : runWord w s = .next t) (hs : s.IdleInv) : t.Inv := by
  obtain ⟨r, hr, hlegal, -⟩ := runWord_response h
  have ht : t.IdleInv := by
    cases hw : decode w with
    | ok i => exact (completes_of_exec ((runWord_of_ok hw s).symm.trans h)).idleInv hs
    | error e =>
      cases (runWord_of_error hw s).symm.trans h
      exact hs
  refine inv_of_idleInv ht fun r' hr' => ?_
  cases hr.symm.trans hr'
  exact hlegal

theorem runWord_continues (w : CmdWord) {s : State} (h : s.cursorBelowRate) : Continues (runWord w s) := by
  cases hw : decode w with
  | ok i => exact runWord_of_ok hw s ▸ exec_continues i h
  | error e => exact ⟨_, runWord_of_error hw s⟩

end Sys2Proof.Machine

namespace Sys2Proof

open Machine

/-- Settles O35: the outcomes of a command are exclusive, and one of them is the stop. -/
theorem stopsOnlyOutsideTheWindow : Obligations.StopsOnlyOutsideTheWindow := fun i s =>
  ⟨exec_eq_fault_iff, exec_ne_refused i s⟩

/-- Settles O36: each way to complete, field by field. -/
theorem commandFrame : Obligations.CommandFrame := by
  intro i s t h
  cases completes_of_exec h with
  | configured m => simp
  | rejected hsize => simp
  | notConfigured hi hvalid => simp
  | absorbed b hvalid hcursor => simp [hvalid]
  | finished hvalid hcursor => simp [hvalid]
  | zeroed hvalid => simp [hvalid]

/-- Settles O38: the digest of FINISH in a configured engine is the only payload. -/
theorem everyCommandResponds : Obligations.EveryCommandResponds := fun _ _ _ => runWord_response

end Sys2Proof
end

section
/-! One step of the ports in two cases (30_encoding.md R61, 70_reset_and_hazards.md R180 to R186): the engine accepts
a word, or it makes a step of its own, in which no word has a part. What is accepted and what the step of its own is
are said once, for both machines. -/

namespace Sys2Proof.Machine

/-! ### The two cases -/

/-- The word this step accepts: the one shown, when the engine is ready and no reset comes (R61, R180). -/
def State.acceptedWord (s : State) : Option CmdWord :=
  if s.cmdReady = true ∧ s.input.rst = false then s.input.cmd else none

/-- A step that accepts no word: the reset, the response port, or the enabled micro-step (R149, R180, R186). -/
def State.ownStep (s : State) : State :=
  if s.input.rst then hardwareReset s.dropInput
  else if s.rspValid then (if s.input.rspReady then { s.dropInput with rsp := none } else s.dropInput)
  else engineStep s.dropInput

theorem cmdReady_iff {s : State} : s.cmdReady = true ↔ s.phase = .idle ∧ s.rsp = none := by
  simp [State.cmdReady]

theorem acceptedWord_eq_some_iff {s : State} {w : CmdWord} :
    s.acceptedWord = some w ↔ s.phase = .idle ∧ s.rsp = none ∧ s.input.rst = false ∧ s.input.cmd = some w := by
  rw [State.acceptedWord, Option.ite_none_right_eq_some, cmdReady_iff, and_assoc, and_assoc]

theorem acceptedWord_of_cmd_none {s : State} (h : s.input.cmd = none) : s.acceptedWord = none := by
  rw [State.acceptedWord, h, ite_self]

theorem acceptedWord_of_not_cmdReady {s : State} (h : s.cmdReady = false) : s.acceptedWord = none :=
  if_neg fun hready => by simp [h] at hready

theorem acceptedWord_of_rsp {s : State} {r : Response} (h : s.rsp = some r) : s.acceptedWord = none :=
  acceptedWord_of_not_cmdReady (by simp [State.cmdReady, h])

theorem acceptedWord_of_phase {s : State} (h : s.phase ≠ .idle) : s.acceptedWord = none :=
  acceptedWord_of_not_cmdReady (by simp [State.cmdReady, h])

section
variable {accept : CmdWord → State → Host.Outcome State Fault Refusal} {s : State}

theorem portStep_of_accepted {w : CmdWord} (h : s.acceptedWord = some w) :
    portStep accept s = accept w s.dropInput := by
  obtain ⟨hphase, hrsp, hrst, hcmd⟩ := acceptedWord_eq_some_iff.mp h
  exact portStep_accepts (cmdReady_iff.mpr ⟨hphase, hrsp⟩) hrst hcmd

theorem portStep_of_not_accepted (h : s.acceptedWord = none) : portStep accept s = .next s.ownStep := by
  rcases portStep_cases accept s with ⟨hrst, he⟩ | ⟨hrst, ⟨r, hr⟩, he⟩ | ⟨hrst, hr, hphase, he⟩ |
    ⟨hrst, hr, hphase, he⟩ | ⟨hrst, hr, hphase, -, he⟩ | ⟨w, hrst, hr, hphase, hcmd, -⟩
  · simp [he, State.ownStep, hrst]
  · simp [he, State.ownStep, hrst, State.rspValid, hr]
  · simp [he, State.ownStep, hrst, State.rspValid, hr, engineStep, hphase]
  · simp [he, State.ownStep, hrst, State.rspValid, hr, engineStep, hphase]
  · simp [he, State.ownStep, hrst, State.rspValid, hr, engineStep, hphase]
  · cases h.symm.trans (acceptedWord_eq_some_iff.mpr ⟨hphase, hr, hrst, hcmd⟩)

end

theorem ownStep_of_rst {s : State} (h : s.input.rst = true) : s.ownStep = hardwareReset s.dropInput := if_pos h

theorem ownStep_of_held {s : State} {r : Response} (hrsp : s.rsp = some r) (hrst : s.input.rst = false)
    (hready : s.input.rspReady = false) : s.ownStep = s.dropInput := by
  simp [State.ownStep, State.rspValid, hrsp, hrst, hready]

theorem ownStep_of_taken {s : State} {r : Response} (hrsp : s.rsp = some r) (hrst : s.input.rst = false)
    (hready : s.input.rspReady = true) : s.ownStep = { s.dropInput with rsp := none } := by
  simp [State.ownStep, State.rspValid, hrsp, hrst, hready]

theorem ownStep_of_no_rsp {s : State} (hrsp : s.rsp = none) (hrst : s.input.rst = false) :
    s.ownStep = engineStep s.dropInput := by
  simp [State.ownStep, State.rspValid, hrsp, hrst]

/-! ### Runs -/

/-- The engine with its ports as a machine, `accept` being what it does with a word. -/
def portCore (accept : CmdWord → State → Host.Outcome State Fault Refusal) : Host.Core :=
  { State := State, Fault := Fault, Refusal := Refusal, step := portStep accept, reset := State.reset }

theorem core_eq_portCore : Sys2Proof.core = portCore runWord := rfl

theorem microCore_eq_portCore : microCore = portCore acceptWord := rfl

theorem portCore_run_succ {accept : CmdWord → State → Host.Outcome State Fault Refusal} {s t : State} (n : Nat)
    (h : portStep accept s = .next t) :
    Host.Core.run (portCore accept) (n + 1) s = Host.Core.run (portCore accept) n t :=
  run_succ_of_next (M := portCore accept) n h

/-- What holds of the inputs of `n + 1` steps, and of a host that drives nothing, holds of the first and of the rest.
-/
theorem input_and_tail_of_take_succ {s : State} {P : PortInput → Prop} {n : Nat} (hquiet : P .quiet)
    (h : ∀ i ∈ s.inputs.take (n + 1), P i) : P s.input ∧ ∀ i ∈ s.inputs.tail.take n, P i := by
  rw [State.input]
  cases hinputs : s.inputs with
  | nil => exact ⟨hquiet, by simp⟩
  | cons i is =>
    rw [hinputs, List.take_succ_cons, List.forall_mem_cons] at h
    exact h

theorem core_run_of_held {s : State} {r : Response} (n : Nat) (hrsp : s.rsp = some r)
    (hhost : ∀ i ∈ s.inputs.take n, i.rst = false ∧ i.rspReady = false) :
    Host.Core.run Sys2Proof.core n s = .next { s with inputs := s.inputs.drop n } := by
  induction n generalizing s with
  | zero => rfl
  | succ n ih =>
    obtain ⟨⟨hrst, hready⟩, hrest⟩ := input_and_tail_of_take_succ ⟨rfl, rfl⟩ hhost
    have hstep : step s = .next s.dropInput := by
      rw [step, portStep_of_not_accepted (acceptedWord_of_rsp hrsp), ownStep_of_held hrsp hrst hready]
    rw [core_run_succ n hstep, ih (s := s.dropInput) hrsp hrest, dropInput_inputs, List.drop_tail]
    rfl

/-! ### The enabled micro-step -/

theorem portStep_of_inCommand {accept : CmdWord → State → Host.Outcome State Fault Refusal} {s : State}
    (hphase : s.phase ≠ .idle) (hrsp : s.rsp = none) (hrst : s.input.rst = false) :
    portStep accept s = .next (engineStep s.dropInput) := by
  rw [portStep_of_not_accepted (acceptedWord_of_phase hphase), ownStep_of_no_rsp hrsp hrst]

theorem engineStep_of_last_toIdle {s : State} (hphase : s.phase = .rounds) (hrnd : ¬ s.rnd.val < 23)
    (hafter : s.after = .toIdle) :
    engineStep s =
      respond .ok [] { s with lanes := keccakRound s.lanes s.rnd, rnd := 0, cursor := 0#8, phase := .idle } := by
  rw [engineStep_of_rounds hphase, roundStep_of_last hrnd, endOfRounds, hafter]

theorem engineStep_of_last_toSqueeze {s : State} (hphase : s.phase = .rounds) (hrnd : ¬ s.rnd.val < 23)
    (hafter : s.after = .toSqueeze) :
    engineStep s = { s with lanes := keccakRound s.lanes s.rnd, rnd := 0, cursor := 0#8, phase := .squeeze } := by
  rw [engineStep_of_rounds hphase, roundStep_of_last hrnd, endOfRounds, hafter]

end Sys2Proof.Machine

namespace Sys2Proof

open Machine

/-- Settles O43: a ready engine accepts the word and runs it. -/
theorem stepRunsTheDecodedCommand : Obligations.StepRunsTheDecodedCommand := by
  intro s w hready hrst hcmd
  have hstep : step s = runWord w s.dropInput := portStep_accepts hready hrst hcmd
  exact ⟨fun _ hw => hstep.trans (runWord_of_ok hw _), fun _ hw => hstep.trans (runWord_of_error hw _)⟩

/-- Settles O44: `withFetchWord` makes the engine ready and shows it the word. -/
theorem fetchedWordRunsNext : Obligations.FetchedWordRunsNext := by
  intro s w i hw hdecode
  have hword : tableWord 16 w = BitVec.ofNat 16 w := congrArg (BitVec.ofNat 16) (Nat.mod_eq_of_lt hw)
  constructor
  · rw [decodeTableWord, if_pos (by decide), hword, hdecode]
    rfl
  · rw [step, State.withFetchWord, hword, portStep_accepts (offerWord_cmdReady _ s) rfl rfl, runWord_of_ok hdecode]
    rfl

/-- Settles O45: `rst` is looked at before everything else. -/
theorem hardwareResetAlwaysWins : Obligations.HardwareResetAlwaysWins := fun s hrst =>
  ⟨hardwareReset s.dropInput, portStep_reset hrst, portStep_reset hrst, fun i _ => laneAt_zeroLanes i, rfl, rfl, rfl,
    rfl, rfl, rfl, rfl, rfl, rfl⟩

/-- Settles O46: by induction on the steps that hold the response. -/
theorem responseIsHeldUntilTaken : Obligations.ResponseIsHeldUntilTaken := by
  intro s r hrsp
  refine ⟨fun n hhost => core_run_of_held n hrsp hhost, fun hrst hready => ?_⟩
  rw [step, portStep_of_not_accepted (acceptedWord_of_rsp hrsp), ownStep_of_taken hrsp hrst hready]
  rfl

/-- Settles O47: a step of the engine's own does not look at the word. -/
theorem unreadyEngineTakesNoWord : Obligations.UnreadyEngineTakesNoWord := by
  intro s i rest hinputs hready
  have hown : s.ownStep = State.ownStep { s with inputs := { i with cmd := none } :: rest } := by
    simp [State.ownStep, State.input, State.rspValid, State.dropInput, hinputs]
  have hstep : ∀ accept, portStep accept s = portStep accept { s with inputs := { i with cmd := none } :: rest } := by
    intro accept
    rw [portStep_of_not_accepted (acceptedWord_of_not_cmdReady hready),
      portStep_of_not_accepted (acceptedWord_of_cmd_none rfl), hown]
  exact ⟨hstep runWord, hstep acceptWord⟩

/-- Settles O58: in IDLE no micro-step is enabled. -/
theorem idleEngineWaitsForAWord : Obligations.IdleEngineWaitsForAWord := by
  intro s hphase hrsp hrst hcmd
  have hstep : ∀ accept, portStep accept s = .next s.dropInput := by
    intro accept
    rw [portStep_of_not_accepted (acceptedWord_of_cmd_none hcmd), ownStep_of_no_rsp hrsp hrst,
      engineStep_of_idle (s := s.dropInput) hphase]
  exact ⟨hstep runWord, hstep acceptWord⟩

/-- Settles O59: the step law of ROUNDS and SQUEEZE, and the micro-step in each case. -/
theorem enabledMicroStepRuns : Obligations.EnabledMicroStepRuns := by
  intro s hrsp hrst
  have hmicro (hphase : s.phase ≠ .idle) : microStep s = .next (engineStep s.dropInput) :=
    portStep_of_inCommand hphase hrsp hrst
  refine ⟨fun hphase => ⟨?_, hmicro hphase⟩, fun hphase hrnd => ?_, fun hphase hrnd hafter => ?_,
    fun hphase hrnd hafter => ?_, fun hphase => ?_⟩
  · exact (portStep_of_inCommand hphase hrsp hrst).trans (hmicro hphase).symm
  · rw [hmicro (by simp [hphase]), engineStep_of_rounds (s := s.dropInput) hphase,
      roundStep_of_lt (s := s.dropInput) hrnd]
    rfl
  · rw [hmicro (by simp [hphase]), engineStep_of_last_toIdle (s := s.dropInput) hphase (by simp [hrnd]) hafter,
      dropInput_rnd, hrnd]
    rfl
  · rw [hmicro (by simp [hphase]), engineStep_of_last_toSqueeze (s := s.dropInput) hphase (by simp [hrnd]) hafter,
      dropInput_rnd, hrnd]
    rfl
  · rw [hmicro (by simp [hphase]), engineStep_of_squeeze (s := s.dropInput) hphase]
    rfl

end Sys2Proof
end

section
/-! The invariant of a run (10_state.md R34, 43_sequencer.md R143 to R146): each step of the engine's own keeps it,
and so does whatever a machine does with an accepted word. -/

namespace Sys2Proof.Machine

/-! ### ACCEPT under R34 (a) -/

/-- Without a session every command is one micro-step, and ACCEPT is the whole of it (R120, R148). -/
theorem acceptInstr_of_not_valid (i : Instr) {s : State} (h : s.valid = false) :
    instrMicroSteps i s = 1 ∧ acceptInstr i s = exec i s := by
  cases i with
  | init size => exact ⟨rfl, rfl⟩
  | absorb b =>
    refine ⟨by simp [instrMicroSteps, h], ?_⟩
    rw [exec_of_not_valid (i := .absorb b) nofun h, acceptInstr, whenConfigured_of_not_valid h]
  | finish =>
    refine ⟨by simp [instrMicroSteps, h], ?_⟩
    rw [exec_of_not_valid (i := .finish) nofun h, acceptInstr, whenConfigured_of_not_valid h]
  | reset => exact ⟨rfl, rfl⟩

/-- ACCEPT of a command in a session, with its count: the whole command in one micro-step, or the start of the rounds
of an ABSORB at the boundary or of a FINISH. -/
theorem acceptInstr_cases_of_valid (i : Instr) {s : State} (hvalid : s.valid = true)
    (hcursor : s.cursor.toNat < s.rate) :
    (instrMicroSteps i s = 1 ∧ acceptInstr i s = exec i s) ∨
      (∃ b, i = .absorb b ∧ s.cursor.toNat + 1 = s.rate ∧ instrMicroSteps i s = 25 ∧
        acceptInstr i s = .next (acceptAbsorb b s)) ∨
      (i = .finish ∧ instrMicroSteps i s = 26 ∧ acceptInstr i s = .next (acceptFinish s)) := by
  cases i with
  | init size => exact .inl ⟨rfl, rfl⟩
  | absorb b =>
    have haccept : acceptInstr (.absorb b) s = .next (acceptAbsorb b s) := by
      rw [acceptInstr, whenConfigured_of_valid hvalid, whenCursorInWindow_of_lt hcursor]
    by_cases hfills : s.cursor.toNat + 1 = s.rate
    · exact .inr (.inl ⟨b, rfl, hfills, by simp [instrMicroSteps, hvalid, hfills], haccept⟩)
    · have hlt : s.cursor.toNat + 1 < s.rate := by omega
      refine .inl ⟨by simp [instrMicroSteps, hfills], ?_⟩
      rw [haccept, exec_absorb, execAbsorb_of_lt b hvalid hcursor, noteAbsorb_of_lt _ hlt, absorbByte_of_lt b hlt,
        acceptAbsorb_of_lt b hlt]
  | finish =>
    refine .inr (.inr ⟨rfl, by simp [instrMicroSteps, hvalid], ?_⟩)
    rw [acceptInstr, whenConfigured_of_valid hvalid, whenCursorInWindow_of_lt hcursor]
  | reset => exact .inl ⟨rfl, rfl⟩

/-- The same for a word, with or without a session (R142 to R144, R148). -/
theorem acceptWord_cases_of_cursorBelowRate (w : CmdWord) {s : State} (h : s.cursorBelowRate) :
    (microSteps w s = 1 ∧ acceptWord w s = runWord w s) ∨
      (∃ b, decode w = .ok (.absorb b) ∧ s.valid = true ∧ s.cursor.toNat + 1 = s.rate ∧ microSteps w s = 25 ∧
        acceptWord w s = .next (acceptAbsorb b s)) ∨
      (decode w = .ok .finish ∧ s.valid = true ∧ s.cursor.toNat < s.rate ∧ microSteps w s = 26 ∧
        acceptWord w s = .next (acceptFinish s)) := by
  cases hw : decode w with
  | error e => exact .inl ⟨by rw [microSteps, hw], by rw [acceptWord, runWord_of_error hw, hw]⟩
  | ok i =>
    have haccept : acceptWord w s = acceptInstr i s := by rw [acceptWord, hw]
    have hcount : microSteps w s = instrMicroSteps i s := by rw [microSteps, hw]
    rw [haccept, hcount, runWord_of_ok hw]
    cases hvalid : s.valid with
    | false => exact .inl (acceptInstr_of_not_valid i hvalid)
    | true =>
      rcases acceptInstr_cases_of_valid i hvalid (h hvalid) with hone | ⟨b, rfl, hrest⟩ | ⟨rfl, hrest⟩
      · exact .inl hone
      · exact .inr (.inl ⟨b, rfl, rfl, hrest⟩)
      · exact .inr (.inr ⟨rfl, rfl, h hvalid, hrest⟩)

/-! ### The parts of the invariant -/

theorem State.Inv.idleInv {s : State} (h : s.Inv) (hphase : s.phase = .idle) : s.IdleInv := by
  obtain ⟨hidle, -, -, -⟩ := h
  exact hidle hphase

theorem State.Inv.roundsInv {s : State} (h : s.Inv) (hphase : s.phase = .rounds) : s.RoundsInv := by
  obtain ⟨-, hrounds, -, -⟩ := h
  exact hrounds hphase

theorem State.Inv.squeezeInv {s : State} (h : s.Inv) (hphase : s.phase = .squeeze) : s.SqueezeInv := by
  obtain ⟨-, -, hsqueeze, -⟩ := h
  exact hsqueeze hphase

theorem inv_of_roundsInv {s : State} (hphase : s.phase = .rounds) (h : s.RoundsInv) : s.Inv := by
  have ⟨_, _, hrsp⟩ := h
  exact ⟨fun e => by simp [hphase] at e, fun _ => h, fun e => by simp [hphase] at e, fun r hr => by simp [hrsp] at hr⟩

theorem inv_of_squeezeInv {s : State} (hphase : s.phase = .squeeze) (h : s.SqueezeInv) : s.Inv := by
  have ⟨_, _, _, _, hrsp⟩ := h
  exact ⟨fun e => by simp [hphase] at e, fun e => by simp [hphase] at e, fun _ => h, fun r hr => by simp [hrsp] at hr⟩

theorem inv_of_idleInv_of_rsp_eq {s : State} {r : Response} (h : s.IdleInv) (hrsp : s.rsp = some r) (hlegal : r.Legal) :
    s.Inv := by
  refine inv_of_idleInv h fun r' hr' => ?_
  cases hrsp.symm.trans hr'
  exact hlegal

theorem inv_of_idleInv_of_rsp_none {s : State} (h : s.IdleInv) (hrsp : s.rsp = none) : s.Inv :=
  inv_of_idleInv h fun r hr => by simp [hrsp] at hr

/-! ### Each step keeps it -/

theorem idleInv_hardwareReset (s : State) : (hardwareReset s).IdleInv := ⟨nofun, fun _ => ⟨rfl, rfl, rfl⟩, rfl, rfl⟩

theorem inv_hardwareReset (s : State) : (hardwareReset s).Inv :=
  inv_of_idleInv_of_rsp_none (idleInv_hardwareReset s) rfl

/-- A round keeps CURSOR at RATE; the last one zeroes CURSOR and RND (R145). -/
theorem inv_roundStep {s : State} (hphase : s.phase = .rounds) (h : s.RoundsInv) : (engineStep s).Inv := by
  obtain ⟨hvalid, hcursor, hrsp⟩ := h
  by_cases hrnd : s.rnd.val < 23
  · rw [engineStep_of_rounds hphase, roundStep_of_lt hrnd]
    exact inv_of_roundsInv hphase ⟨hvalid, hcursor, hrsp⟩
  cases hafter : s.after with
  | toIdle =>
    rw [engineStep_of_last_toIdle hphase hrnd hafter]
    exact inv_of_idleInv_of_rsp_eq (idleInv_of_valid hvalid (cursor_lt_rate_of_eq_zero rfl) rfl rfl) rfl (legal_empty _)
  | toSqueeze =>
    rw [engineStep_of_last_toSqueeze hphase hrnd hafter]
    exact inv_of_squeezeInv rfl ⟨hvalid, rfl, rfl, hafter, hrsp⟩

theorem inv_engineStep {s : State} (h : s.Inv) : (engineStep s).Inv := by
  cases hphase : s.phase with
  | idle => rwa [engineStep_of_idle hphase]
  | rounds => exact inv_roundStep hphase (h.roundsInv hphase)
  | squeeze =>
    obtain ⟨hvalid, hcursor, hrnd, -, -⟩ := h.squeezeInv hphase
    rw [engineStep_of_squeeze hphase]
    exact inv_of_idleInv_of_rsp_eq (idleInv_of_valid hvalid (cursor_lt_rate_of_eq_zero hcursor) rfl hrnd) rfl
      (legal_digest s)

/-- What the host drives later is no part of the invariant. -/
theorem inv_dropInput {s : State} (h : s.Inv) : s.dropInput.Inv := h

theorem inv_ownStep {s : State} (h : s.Inv) : s.ownStep.Inv := by
  cases hrst : s.input.rst with
  | true =>
    rw [ownStep_of_rst hrst]
    exact inv_hardwareReset _
  | false =>
    cases hrsp : s.rsp with
    | none =>
      rw [ownStep_of_no_rsp hrsp hrst]
      exact inv_engineStep (inv_dropInput h)
    | some r =>
      cases hready : s.input.rspReady with
      | false => rwa [ownStep_of_held hrsp hrst hready]
      | true =>
        rw [ownStep_of_taken hrsp hrst hready]
        exact inv_of_idleInv_of_rsp_none (h.idleInv (idle_of_rsp h hrsp)) rfl

theorem acceptWord_keeps_inv {w : CmdWord} {s t : State} (h : acceptWord w s = .next t) (hs : s.IdleInv)
    (hrsp : s.rsp = none) : t.Inv := by
  have ⟨hbelow, _, _, _⟩ := hs
  rcases acceptWord_cases_of_cursorBelowRate w hbelow with ⟨-, he⟩ | ⟨b, -, hvalid, hfills, -, he⟩ |
    ⟨-, hvalid, -, -, he⟩
  · exact runWord_keeps_inv (he.symm.trans h) hs
  · cases he.symm.trans h
    rw [acceptAbsorb_of_fills b hfills]
    exact inv_of_roundsInv rfl ⟨hvalid, (toNat_cursor_succ (by omega)).trans hfills, hrsp⟩
  · cases he.symm.trans h
    have hrate : (BitVec.ofNat 8 s.rate).toNat = s.rate := by
      have := s.rate_le
      rw [BitVec.toNat_ofNat]
      omega
    exact inv_of_roundsInv rfl ⟨hvalid, hrate, hrsp⟩

theorem acceptWord_continues (w : CmdWord) {s : State} (h : s.cursorBelowRate) : Continues (acceptWord w s) := by
  rcases acceptWord_cases_of_cursorBelowRate w h with ⟨-, he⟩ | ⟨b, -, -, -, -, he⟩ | ⟨-, -, -, -, he⟩
  · exact he ▸ runWord_continues w h
  · exact ⟨_, he⟩
  · exact ⟨_, he⟩

section
variable {accept : CmdWord → State → Host.Outcome State Fault Refusal}

/-- A machine keeps the invariant if what it does with an accepted word does. -/
theorem portStep_keeps_inv
    (haccept : ∀ w s t, accept w s = .next t → s.IdleInv → s.rsp = none → t.Inv)
    {s t : State} (hs : s.Inv) (hstep : portStep accept s = .next t) : t.Inv := by
  cases hword : s.acceptedWord with
  | none =>
    cases (portStep_of_not_accepted hword).symm.trans hstep
    exact inv_ownStep hs
  | some w =>
    obtain ⟨hphase, hrsp, -, -⟩ := acceptedWord_eq_some_iff.mp hword
    exact haccept w _ t ((portStep_of_accepted hword).symm.trans hstep) ((inv_dropInput hs).idleInv hphase) hrsp

theorem portStep_continues (haccept : ∀ w s, State.cursorBelowRate s → Continues (accept w s)) {s : State}
    (hs : s.Inv) : Continues (portStep accept s) := by
  cases hword : s.acceptedWord with
  | none => exact ⟨_, portStep_of_not_accepted hword⟩
  | some w =>
    obtain ⟨hphase, -, -, -⟩ := acceptedWord_eq_some_iff.mp hword
    obtain ⟨hbelow, -, -, -⟩ := (inv_dropInput hs).idleInv hphase
    exact portStep_of_accepted hword ▸ haccept w _ hbelow

end

end Sys2Proof.Machine

namespace Sys2Proof

open Machine

/-- Settles O48: the reset state is idle, unconfigured and zeroed. -/
theorem resetMeetsTheInvariant : Obligations.ResetMeetsTheInvariant :=
  ⟨inv_hardwareReset State.reset, idleInv_hardwareReset State.reset, memCells_wf _⟩

/-- Settles O49: an accepted word is run whole, which leaves an idle engine. -/
theorem stepKeepsTheInvariant : Obligations.StepKeepsTheInvariant := fun _ _ =>
  portStep_keeps_inv fun _ _ _ h hs _ => runWord_keeps_inv h hs

/-- Settles O50: an accepted word is run whole or starts the rounds with CURSOR at RATE. -/
theorem microStepKeepsTheInvariant : Obligations.MicroStepKeepsTheInvariant := fun _ _ =>
  portStep_keeps_inv fun _ _ _ => acceptWord_keeps_inv

/-- Settles O51: R34 (a) is the precondition of every command. -/
theorem invariantNeverStops : Obligations.InvariantNeverStops := fun _ hs =>
  ⟨portStep_continues (fun w _ => runWord_continues w) hs, portStep_continues (fun w _ => acceptWord_continues w) hs⟩

end Sys2Proof
end

section
/-! From ACCEPT to the response (43_sequencer.md R145 to R149). The micro-steps left until IDLE are a count that every
micro-step lowers by one, whatever the data; what the rounds among them have done to the lanes is the first rounds of
Permute. -/

namespace Sys2Proof.Machine

/-! ### Rounds in a row (R90, R145) -/

/-- The `n` rounds from index `r` on. -/
def roundsFrom (r n : Nat) (S : Lanes) : Lanes := (((List.finRange 24).drop r).take n).foldl keccakRound S

theorem roundsFrom_succ {r n : Nat} (h : r + n < 24) (S : Lanes) :
    roundsFrom r (n + 1) S = keccakRound (roundsFrom r n S) ⟨r + n, h⟩ := by
  have hnext : ((List.finRange 24).drop r)[n]? = some ⟨r + n, h⟩ := by
    rw [List.getElem?_drop, List.getElem?_eq_getElem (by simpa using h), List.getElem_finRange]
    rfl
  rw [roundsFrom, List.take_add_one, hnext, List.foldl_append]
  rfl

theorem roundsFrom_zero_eq_permute (S : Lanes) : roundsFrom 0 24 S = permute S := rfl

/-- The rounds short of the last change the lanes and RND only. -/
theorem engineStep_iterate_of_rounds {s : State} (hphase : s.phase = .rounds) {n : Nat} (h : s.rnd.val + n < 24) :
    engineStep^[n] s = { s with lanes := roundsFrom s.rnd.val n s.lanes, rnd := ⟨s.rnd.val + n, h⟩ } := by
  induction n with
  | zero => rfl
  | succ n ih =>
    have hrnd : (⟨s.rnd.val + n, by omega⟩ : Fin 24) + 1 = ⟨s.rnd.val + (n + 1), h⟩ :=
      Fin.ext (Nat.mod_eq_of_lt h)
    rw [Function.iterate_succ_apply', ih (by omega), engineStep_of_rounds (by exact hphase),
      roundStep_of_lt (by exact Nat.lt_of_succ_lt_succ h), roundsFrom_succ, hrnd]

/-- From RND = 0 the last round completes Permute. -/
theorem engineStep_iterate_permutes {s : State} (hphase : s.phase = .rounds) (hrnd : s.rnd = 0) :
    engineStep^[24] s = endOfRounds { s with lanes := permute s.lanes, cursor := 0#8 } := by
  have hlt : s.rnd.val + 23 < 24 := by simp [hrnd]
  rw [Function.iterate_succ_apply', engineStep_iterate_of_rounds hphase hlt,
    engineStep_of_rounds (by exact hphase), roundStep_of_last (by simp), ← roundsFrom_succ hlt]
  simp only [hrnd, Fin.val_zero, Nat.reduceAdd, roundsFrom_zero_eq_permute]

/-! ### The count of micro-steps left -/

/-- How many micro-steps are left until PHASE is IDLE (R145, R146). -/
def State.stepsToIdle (s : State) : Nat :=
  match s.phase, s.after with
  | .idle, _ => 0
  | .rounds, .toIdle => 24 - s.rnd.val
  | .rounds, .toSqueeze => 24 - s.rnd.val + 1
  | .squeeze, _ => 1

theorem stepsToIdle_of_idle {s : State} (h : s.phase = .idle) : s.stepsToIdle = 0 := by simp [State.stepsToIdle, h]

theorem stepsToIdle_of_squeeze {s : State} (h : s.phase = .squeeze) : s.stepsToIdle = 1 := by
  simp [State.stepsToIdle, h]

theorem stepsToIdle_of_toIdle {s : State} (hphase : s.phase = .rounds) (hafter : s.after = .toIdle) :
    s.stepsToIdle = 24 - s.rnd.val := by simp [State.stepsToIdle, hphase, hafter]

theorem stepsToIdle_of_toSqueeze {s : State} (hphase : s.phase = .rounds) (hafter : s.after = .toSqueeze) :
    s.stepsToIdle = 24 - s.rnd.val + 1 := by simp [State.stepsToIdle, hphase, hafter]

theorem stepsToIdle_le (s : State) : s.stepsToIdle ≤ 25 := by
  rw [State.stepsToIdle]
  split <;> omega

theorem stepsToIdle_pos {s : State} (h : s.phase ≠ .idle) : 0 < s.stepsToIdle := by
  rw [State.stepsToIdle]
  split
  · contradiction
  all_goals omega

/-- A micro-step inside a command brings the end nearer by one; the last one answers, and none before it does. -/
theorem engineStep_of_phase_ne_idle {s : State} (h : s.phase ≠ .idle) :
    (engineStep s).stepsToIdle + 1 = s.stepsToIdle ∧
      ((engineStep s).phase ≠ .idle ∧ (engineStep s).rsp = s.rsp ∨
        (engineStep s).phase = .idle ∧ (engineStep s).rsp.isSome = true) := by
  cases hphase : s.phase with
  | idle => contradiction
  | squeeze =>
    rw [engineStep_of_squeeze hphase, stepsToIdle_of_squeeze hphase, stepsToIdle_of_idle rfl]
    exact ⟨rfl, .inr ⟨rfl, rfl⟩⟩
  | rounds =>
    by_cases hrnd : s.rnd.val < 23
    · have hnext : (s.rnd + 1).val = s.rnd.val + 1 := Fin.val_add_one_of_lt' (by omega)
      rw [engineStep_of_rounds hphase, roundStep_of_lt hrnd]
      refine ⟨?_, .inl ⟨h, rfl⟩⟩
      cases hafter : s.after <;> simp only [State.stepsToIdle, hphase, hafter, hnext] <;> omega
    · cases hafter : s.after with
      | toIdle =>
        rw [engineStep_of_last_toIdle hphase hrnd hafter, stepsToIdle_of_toIdle hphase hafter, stepsToIdle_of_idle rfl]
        exact ⟨by omega, .inr ⟨rfl, rfl⟩⟩
      | toSqueeze =>
        rw [engineStep_of_last_toSqueeze hphase hrnd hafter, stepsToIdle_of_toSqueeze hphase hafter,
          stepsToIdle_of_squeeze rfl]
        exact ⟨by omega, .inl ⟨nofun, rfl⟩⟩

/-- A command is in the engine until its count is used up, and then it has answered (R149). -/
theorem engineStep_iterate_until_idle (s : State) :
    (∀ j < s.stepsToIdle, (engineStep^[j] s).phase ≠ .idle ∧ (engineStep^[j] s).rsp = s.rsp) ∧
      (engineStep^[s.stepsToIdle] s).phase = .idle ∧
      (s.phase ≠ .idle → (engineStep^[s.stepsToIdle] s).rsp.isSome = true) := by
  induction hn : s.stepsToIdle generalizing s with
  | zero =>
    have hidle : s.phase = .idle := by_contra fun h => (stepsToIdle_pos h).ne' hn
    exact ⟨nofun, hidle, fun h => absurd hidle h⟩
  | succ n ih =>
    have hphase : s.phase ≠ .idle := fun h => by simp [stepsToIdle_of_idle h] at hn
    obtain ⟨hcount, hnext⟩ := engineStep_of_phase_ne_idle hphase
    have hleft : (engineStep s).stepsToIdle = n := by omega
    obtain ⟨hbefore, hidle, hanswered⟩ := ih (engineStep s) hleft
    rcases hnext with ⟨hinside, hrsp⟩ | ⟨hdone, hanswer⟩
    · refine ⟨fun j hj => ?_, hidle, fun _ => hanswered hinside⟩
      cases j with
      | zero => exact ⟨hphase, rfl⟩
      | succ j => exact hrsp ▸ hbefore j (by omega)
    · obtain rfl : n = 0 := hleft.symm.trans (stepsToIdle_of_idle hdone)
      refine ⟨fun j hj => ?_, hidle, fun _ => hanswer⟩
      obtain rfl : j = 0 := by omega
      exact ⟨hphase, rfl⟩

/-- Inside a command a machine runs the engine's own micro-steps, whatever the host drives but `rst` (R149). -/
theorem portCore_run_inCommand {accept : CmdWord → State → Host.Outcome State Fault Refusal} {s : State} {n : Nat}
    (hrsp : s.rsp = none) (hn : n ≤ s.stepsToIdle) (hrst : ∀ i ∈ s.inputs.take n, i.rst = false) :
    Host.Core.run (portCore accept) n s = .next { engineStep^[n] s with inputs := s.inputs.drop n } := by
  induction n generalizing s with
  | zero => rfl
  | succ n ih =>
    obtain ⟨hrst, hrest⟩ := input_and_tail_of_take_succ (P := (·.rst = false)) rfl hrst
    have hphase : s.phase ≠ .idle := fun h => by simp [stepsToIdle_of_idle h] at hn
    have hstep : portStep accept s = .next { engineStep s with inputs := s.inputs.tail } := by
      rw [portStep_of_inCommand hphase hrsp hrst, State.dropInput, engineStep_withInputs]
    obtain ⟨hcount, ⟨-, hrsp'⟩ | ⟨hdone, -⟩⟩ := engineStep_of_phase_ne_idle hphase
    · rw [portCore_run_succ n hstep, ih (s := { engineStep s with inputs := s.inputs.tail }) (hrsp'.trans hrsp)
        (Nat.le_of_succ_le_succ (hn.trans_eq hcount.symm)) hrest, engineStep_iterate_withInputs, List.drop_tail]
      rfl
    · obtain rfl : n = 0 := by
        have := stepsToIdle_of_idle hdone
        omega
      rw [portCore_run_succ 0 hstep, ← List.drop_one]
      rfl

/-! ### A whole command by micro-steps (R147, R148) -/

theorem runToIdle_eq_iterate (s : State) : runToIdle 25 s = engineStep^[s.stepsToIdle] s := by
  obtain ⟨hbefore, hidle, -⟩ := engineStep_iterate_until_idle s
  have hsplit : 25 = s.stepsToIdle + (25 - s.stepsToIdle) := by
    have := stepsToIdle_le s
    omega
  rw [hsplit, runToIdle_add _ _ _ fun j hj => (hbefore j hj).1, runToIdle_of_idle _ hidle]

/-- ABSORB at the boundary: the rounds complete the command (R102, R143, R145). -/
theorem acceptAbsorb_completes {b : Byte} {s : State} (hs : s.IdleInv) (hvalid : s.valid = true)
    (hfills : s.cursor.toNat + 1 = s.rate) :
    (acceptAbsorb b s).stepsToIdle = 24 ∧
      exec (.absorb b) s = .next (engineStep^[24] (acceptAbsorb b s)) := by
  obtain ⟨-, -, hphase, hrnd⟩ := hs
  rw [acceptAbsorb_of_fills b hfills, engineStep_iterate_permutes rfl rfl, exec_absorb,
    execAbsorb_of_lt b hvalid (by omega), noteAbsorb_of_fills _ hfills, absorbByte_of_fills b hfills]
  refine ⟨rfl, ?_⟩
  simp only [endOfRounds, hphase, hrnd]

/-- FINISH: the rounds and the squeeze complete the command (R107, R144 to R146). -/
theorem acceptFinish_completes {s : State} (hs : s.IdleInv) (hvalid : s.valid = true)
    (hcursor : s.cursor.toNat < s.rate) :
    (acceptFinish s).stepsToIdle = 25 ∧ exec .finish s = .next (engineStep^[25] (acceptFinish s)) := by
  obtain ⟨-, -, hphase, hrnd⟩ := hs
  rw [Function.iterate_succ_apply', engineStep_iterate_permutes rfl rfl, exec_finish, execFinish_of_lt hvalid hcursor,
    absorbPad_eq hcursor]
  refine ⟨rfl, ?_⟩
  simp only [endOfRounds, acceptFinish, engineStep, squeezeStep, State.zeroSession, hphase, hrnd]
  rfl

/-- ACCEPT and the micro-steps it leaves to do are the whole command, and they are its count (R147, R148). -/
theorem acceptWord_completes (w : CmdWord) {s : State} (hs : s.IdleInv) :
    ∃ t, acceptWord w s = .next t ∧ microSteps w s = t.stepsToIdle + 1 ∧
      runWord w s = .next (engineStep^[t.stepsToIdle] t) ∧ t.inputs = s.inputs ∧ (t.phase ≠ .idle → t.rsp = s.rsp) := by
  have ⟨hbelow, _, hphase, _⟩ := hs
  rcases acceptWord_cases_of_cursorBelowRate w hbelow with ⟨hcount, he⟩ | ⟨b, hw, hvalid, hfills, hcount, he⟩ |
    ⟨hw, hvalid, hcursor, hcount, he⟩
  · obtain ⟨t, ht⟩ := runWord_continues w hbelow
    obtain ⟨hsame, hinputs, -⟩ := runWord_answers ht
    have hidle : t.phase = .idle := hsame.trans hphase
    have hzero := stepsToIdle_of_idle hidle
    exact ⟨t, he.trans ht, by rw [hcount, hzero], by rw [ht, hzero]; rfl, hinputs, fun h => absurd hidle h⟩
  · obtain ⟨hsteps, hexec⟩ := acceptAbsorb_completes (b := b) hs hvalid hfills
    have hstarts := acceptAbsorb_of_fills b hfills
    exact ⟨_, he, by rw [hcount, hsteps], by rw [runWord_of_ok hw, hexec, hsteps], by rw [hstarts],
      fun _ => by rw [hstarts]⟩
  · obtain ⟨hsteps, hexec⟩ := acceptFinish_completes hs hvalid hcursor
    exact ⟨_, he, by rw [hcount, hsteps], by rw [runWord_of_ok hw, hexec, hsteps], rfl, fun _ => rfl⟩

/-- After ACCEPT, with a host that drives nothing more, the run of the micro-step machine is the engine's own. -/
theorem microCore_run_of_accepted {s t : State} {j : Nat} (hstep : microStep s = .next t) (hinputs : t.inputs = [])
    (hrsp : t.phase ≠ .idle → t.rsp = none) (hj : j ≤ t.stepsToIdle) :
    Host.Core.run microCore (j + 1) s = .next (engineStep^[j] t) := by
  refine (microCore_run_succ j hstep).trans ?_
  by_cases hphase : t.phase = .idle
  · obtain rfl : j = 0 := Nat.le_zero.mp (stepsToIdle_of_idle hphase ▸ hj)
    rfl
  · have hkeeps : { engineStep^[j] t with inputs := t.inputs.drop j } = engineStep^[j] t := by
      rw [← engineStep_iterate_withInputs, hinputs, List.drop_nil, ← hinputs]
    exact (portCore_run_inCommand (hrsp hphase) hj (by simp [hinputs])).trans (congrArg _ hkeeps)

/-! ### What a message costs (R148) -/

theorem sequenceMicroSteps_cons {w : CmdWord} {s t : State} (ws : List CmdWord) (h : runWord w s = .next t) :
    sequenceMicroSteps (w :: ws) s = microSteps w s + sequenceMicroSteps ws t := by
  rw [sequenceMicroSteps, h]

theorem microSteps_encode {i : Instr} (hwf : i.wellFormed = true) (s : State) :
    microSteps (encode i) s = instrMicroSteps i s := by
  rw [microSteps, decode_encode hwf]

/-- The count does not read what the host drives. -/
theorem microSteps_dropInput (w : CmdWord) (s : State) : microSteps w s.dropInput = microSteps w s := by
  cases hw : decode w with
  | error e => rw [microSteps, microSteps, hw]
  | ok i =>
    rw [microSteps, microSteps, hw]
    cases i <;> rfl

/-- From any CURSOR in the window: one micro-step a byte and 24 more for each byte that fills the window. -/
theorem sequenceMicroSteps_message {s : State} (msg : List Byte) (hvalid : s.valid = true)
    (hcursor : s.cursor.toNat < s.rate) :
    sequenceMicroSteps (absorbWords msg ++ [encode .finish]) s =
      msg.length + 24 * ((s.cursor.toNat + msg.length) / s.rate) + 26 := by
  induction msg generalizing s with
  | nil =>
    have hfinish := (runWord_encode (i := .finish) rfl s).trans (execFinish_of_lt hvalid hcursor)
    rw [absorbWords, List.map_nil, List.nil_append, sequenceMicroSteps_cons _ hfinish, microSteps_encode rfl]
    simp [instrMicroSteps, hvalid, sequenceMicroSteps, Nat.div_eq_of_lt hcursor]
  | cons b msg ih =>
    have habsorb := (runWord_encode (i := .absorb b) rfl s).trans (execAbsorb_of_lt b hvalid hcursor)
    have hrest := ih (s := respond .ok [] (s.noteAbsorb (absorbByte s b))) (by simpa using hvalid)
      (by simpa using cursor_absorbByte_lt b hcursor)
    simp only [respond_cursor, noteAbsorb_cursor, respond_rate, noteAbsorb_rate, absorbByte_rate,
      toNat_cursor_absorbByte b hcursor] at hrest
    rw [absorbWords, List.map_cons, List.cons_append, sequenceMicroSteps_cons _ habsorb, microSteps_encode rfl,
      ← absorbWords, hrest, List.length_cons, instrMicroSteps, hvalid]
    by_cases hfills : s.cursor.toNat + 1 = s.rate
    · have hwraps : s.cursor.toNat + (msg.length + 1) = msg.length + s.rate := by omega
      rw [if_pos hfills, if_pos (by simpa using hfills), hwraps, Nat.add_div_right _ (Nat.zero_lt_of_lt hcursor),
        zero_add]
      omega
    · have hmoves : s.cursor.toNat + (msg.length + 1) = s.cursor.toNat + 1 + msg.length := by omega
      rw [if_neg hfills, if_neg (by simpa using hfills), hmoves]
      omega

end Sys2Proof.Machine

namespace Sys2Proof

open Machine

/-- Settles O18: the rounds from 0 on, one by one, are the rounds of Permute. -/
theorem twentyFourRoundStepsPermute : Obligations.TwentyFourRoundStepsPermute := by
  intro s hphase hrnd
  constructor
  · intro n hn
    have hlt : s.rnd.val + n < 24 := by simp [hrnd]; omega
    rw [engineStep_iterate_of_rounds hphase hlt]
    exact ⟨hphase, by simp [hrnd], rfl⟩
  · rw [engineStep_iterate_permutes hphase hrnd, endOfRounds]
    cases s.after <;> rfl

/-- Settles O52: the micro-steps after ACCEPT complete the command. -/
theorem sequencerAgreesWithCommandLevel : Obligations.SequencerAgreesWithCommandLevel := by
  intro s w hs
  obtain ⟨t, haccept, -, hrun, -, -⟩ := acceptWord_completes w hs
  simp only [runWordMicro, haccept, hrun, runToIdle_eq_iterate]

/-- Settles O53: ACCEPT is the first micro-step, and the count after it is what is left until IDLE. -/
theorem microStepCount : Obligations.MicroStepCount := by
  intro s w hs hrsp hinputs
  have ⟨hbelow, _, hphase, _⟩ := hs
  have hready : s.ReadyFor [.send w] := ⟨hphase, hrsp, hinputs⟩
  have hinput : s.input = .send w := by rw [State.input, hinputs]; rfl
  have hstep (accept) : portStep accept s = accept w s.dropInput :=
    portStep_accepts hready.cmdReady (by rw [hinput]; rfl) (by rw [hinput]; rfl)
  obtain ⟨t, haccept, hcount, hrun, htinputs, htrsp⟩ := acceptWord_completes w (s := s.dropInput) hs
  rw [microSteps_dropInput] at hcount
  have hnil : t.inputs = [] := by rw [htinputs, dropInput_inputs, hinputs, List.tail_cons]
  have hmicro {j : Nat} : j ≤ t.stepsToIdle → Host.Core.run microCore (j + 1) s = .next (engineStep^[j] t) :=
    microCore_run_of_accepted ((hstep acceptWord).trans haccept) hnil fun h => (htrsp h).trans hrsp
  refine ⟨?_, fun k hpos hk => ?_, ?_⟩
  · rcases acceptWord_cases_of_cursorBelowRate w hbelow with ⟨h, -⟩ | ⟨_, -, -, -, h, -⟩ | ⟨-, -, -, h, -⟩ <;> simp [h]
  · obtain ⟨j, rfl⟩ := Nat.exists_eq_add_of_le' hpos
    have hj : j < t.stepsToIdle := by omega
    obtain ⟨hbefore, -, -⟩ := engineStep_iterate_until_idle t
    obtain ⟨hphase, hsame⟩ := hbefore j hj
    have htphase : t.phase ≠ .idle := fun h => by simp [stepsToIdle_of_idle h] at hj
    exact ⟨_, hmicro hj.le, hphase, hsame.trans ((htrsp htphase).trans hrsp)⟩
  · rw [hcount]
    exact (hmicro le_rfl).trans (((hstep runWord).trans hrun).symm)

/-- Settles O54: from CURSOR = 0 the window fills once every RATE bytes. -/
theorem messageMicroStepCost : Obligations.MessageMicroStepCost := by
  intro s msg hvalid hcursor
  rw [sequenceMicroSteps_message msg hvalid (cursor_lt_rate_of_eq_zero hcursor), hcursor, BitVec.toNat_zero, zero_add]

/-- Settles O55: with the count of micro-steps left. -/
theorem acceptedCommandReachesItsResponse : Obligations.AcceptedCommandReachesItsResponse := by
  intro s hs hphase
  have hrsp : s.rsp = none := Option.eq_none_iff_forall_ne_some.mpr fun _ hr => hphase (idle_of_rsp hs hr)
  obtain ⟨hbefore, hidle, hanswered⟩ := engineStep_iterate_until_idle s
  refine ⟨s.stepsToIdle, stepsToIdle_le s, hidle, hanswered hphase, fun j hj => ?_, fun j hj hrst => ?_⟩
  · obtain ⟨hinside, hsame⟩ := hbefore j hj
    exact ⟨hinside, hsame.trans hrsp⟩
  · exact ⟨portCore_run_inCommand hrsp hj hrst, portCore_run_inCommand hrsp hj hrst⟩

/-- Settles O57: count and latency branch on the same conditions. -/
theorem latencyFollowsMicroSteps : Obligations.LatencyFollowsMicroSteps := by
  intro w s
  cases hw : decode w with
  | error e => simp [microSteps, latency, hw]
  | ok i =>
    simp only [microSteps, latency, hw]
    cases i with
    | init size => simp [instrMicroSteps, instrLatency]
    | absorb b => cases h : s.valid && s.fillsWindow <;> simp [instrMicroSteps, instrLatency, h]
    | finish => cases h : s.valid <;> simp [instrMicroSteps, instrLatency, h]
    | reset => simp [instrMicroSteps, instrLatency]

end Sys2Proof
end

section
/-! Control does not depend on data (42_commands.md R131, 70_reset_and_hazards.md R189). Two states are compared field
by field in all but lanes, a response's contents and message bytes to come; every operation of the model keeps them
so, and every branch it takes reads one of the compared fields. -/

namespace Sys2Proof.Machine

/-! ### States with the same control -/

/-- `s.control = t.control`, field by field. -/
structure SameControl (s t : State) : Prop where
  cursor_eq : s.cursor = t.cursor
  mode_eq : s.mode = t.mode
  valid_eq : s.valid = t.valid
  phase_eq : s.phase = t.phase
  rnd_eq : s.rnd = t.rnd
  after_eq : s.after = t.after
  rspValid_eq : s.rspValid = t.rspValid
  shapes_eq : s.inputs.map PortInput.shape = t.inputs.map PortInput.shape

theorem control_eq_iff {s t : State} : s.control = t.control ↔ SameControl s t := by
  simp only [State.control, Prod.mk.injEq]
  constructor
  · rintro ⟨hcursor, hmode, hvalid, hphase, hrnd, hafter, hrsp, hshapes⟩
    exact ⟨hcursor, hmode, hvalid, hphase, hrnd, hafter, hrsp, hshapes⟩
  · intro h
    exact ⟨h.cursor_eq, h.mode_eq, h.valid_eq, h.phase_eq, h.rnd_eq, h.after_eq, h.rspValid_eq, h.shapes_eq⟩

namespace SameControl

variable {s t : State}

theorem rate_eq (h : SameControl s t) : s.rate = t.rate := congrArg Mode.rate h.mode_eq

theorem cmdReady_eq (h : SameControl s t) : s.cmdReady = t.cmdReady := by
  have hnone (u : State) : u.rsp.isNone = !u.rspValid := (Option.not_isSome _).symm
  rw [State.cmdReady, State.cmdReady, hnone, hnone, h.phase_eq, h.rspValid_eq]

theorem inputShape_eq (h : SameControl s t) : s.input.shape = t.input.shape := by
  have hhead (is : List PortInput) : (is.headD .quiet).shape = (is.map PortInput.shape).headD .quiet := by
    cases is <;> rfl
  rw [State.input, State.input, hhead, hhead, h.shapes_eq]

theorem rst_eq (h : SameControl s t) : s.input.rst = t.input.rst := (congrArg PortInput.rst h.inputShape_eq :)

theorem rspReady_eq (h : SameControl s t) : s.input.rspReady = t.input.rspReady :=
  (congrArg PortInput.rspReady h.inputShape_eq :)

theorem cmdShape_eq (h : SameControl s t) : s.input.cmd.map wordShape = t.input.cmd.map wordShape :=
  (congrArg PortInput.cmd h.inputShape_eq :)

/-! ### What keeps it -/

theorem respond_congr (h : SameControl s t) (st : Status) (p q : List Byte) :
    SameControl (respond st p s) (respond st q t) := { h with rspValid_eq := rfl }

theorem raiseError_congr (h : SameControl s t) (e : Error) : SameControl (raiseError e s) (raiseError e t) :=
  h.respond_congr e.status [] []

theorem takeResponse_congr (h : SameControl s t) :
    SameControl { s with rsp := none } { t with rsp := none } := { h with rspValid_eq := rfl }

theorem zeroSession_congr (h : SameControl s t) : SameControl s.zeroSession t.zeroSession :=
  { h with cursor_eq := rfl }

theorem configure_congr (h : SameControl s t) (m : Mode) : SameControl (s.configure m) (t.configure m) :=
  { h with mode_eq := rfl, valid_eq := rfl }

theorem unconfigure_congr (h : SameControl s t) : SameControl s.unconfigure t.unconfigure :=
  { h with mode_eq := rfl, valid_eq := rfl }

theorem setAfter_congr (h : SameControl s t) (a : After) : SameControl { s with after := a } { t with after := a } :=
  { h with after_eq := rfl }

theorem hardwareReset_congr (h : SameControl s t) : SameControl (hardwareReset s) (hardwareReset t) :=
  ⟨rfl, rfl, rfl, rfl, rfl, rfl, rfl, h.shapes_eq⟩

theorem dropInput_congr (h : SameControl s t) : SameControl s.dropInput t.dropInput :=
  { h with shapes_eq := by rw [dropInput_inputs, dropInput_inputs, List.map_tail, List.map_tail, h.shapes_eq] }

theorem absorbByte_congr (h : SameControl s t) (a b : Byte) : SameControl (absorbByte s a) (absorbByte t b) := by
  simp only [absorbByte, ← h.cursor_eq, ← h.rate_eq]
  split
  · exact { h with cursor_eq := rfl }
  · exact { h with cursor_eq := rfl }

theorem noteAbsorb_congr (h : SameControl s t) {u v : State} (huv : SameControl u v) :
    SameControl (s.noteAbsorb u) (t.noteAbsorb v) := by
  have hfills : s.fillsWindow = t.fillsWindow := by
    rw [State.fillsWindow, State.fillsWindow, h.cursor_eq, h.rate_eq]
  rw [State.noteAbsorb, State.noteAbsorb, hfills]
  split
  · exact { huv with after_eq := rfl }
  · exact huv

/-- The pad's length is RATE - CURSOR, and its bytes are data. -/
theorem absorbPad_congr (h : SameControl s t) (hcursor : s.cursor.toNat < s.rate) :
    SameControl (absorbPad s) (absorbPad t) := by
  rw [absorbPad_eq hcursor, absorbPad_eq (by rwa [← h.cursor_eq, ← h.rate_eq])]
  exact { h with cursor_eq := rfl }

theorem acceptAbsorb_congr (h : SameControl s t) (a b : Byte) :
    SameControl (acceptAbsorb a s) (acceptAbsorb b t) := by
  simp only [acceptAbsorb, ← h.cursor_eq, ← h.rate_eq]
  split
  · exact { h with cursor_eq := rfl, phase_eq := rfl, rnd_eq := rfl, after_eq := rfl }
  · exact { h with cursor_eq := rfl, rspValid_eq := rfl }

theorem acceptFinish_congr (h : SameControl s t) : SameControl (acceptFinish s) (acceptFinish t) :=
  { h with cursor_eq := congrArg (BitVec.ofNat 8) h.rate_eq, phase_eq := rfl, rnd_eq := rfl, after_eq := rfl }

theorem endOfRounds_congr (h : SameControl s t) : SameControl (endOfRounds s) (endOfRounds t) := by
  simp only [endOfRounds, ← h.after_eq]
  split
  · exact { h with phase_eq := rfl, after_eq := rfl, rspValid_eq := rfl }
  · exact { h with phase_eq := rfl, after_eq := rfl }

theorem roundStep_congr (h : SameControl s t) : SameControl (roundStep s) (roundStep t) := by
  simp only [roundStep, ← h.rnd_eq]
  split
  · exact { h with rnd_eq := rfl }
  · exact SameControl.endOfRounds_congr { h with rnd_eq := rfl, cursor_eq := rfl }

theorem engineStep_congr (h : SameControl s t) : SameControl (engineStep s) (engineStep t) := by
  simp only [engineStep, ← h.phase_eq]
  split
  · exact h
  · exact h.roundStep_congr
  · exact { h with phase_eq := rfl, rspValid_eq := rfl }

theorem ownStep_congr (h : SameControl s t) : SameControl s.ownStep t.ownStep := by
  simp only [State.ownStep, ← h.rst_eq, ← h.rspValid_eq, ← h.rspReady_eq]
  split
  · exact h.dropInput_congr.hardwareReset_congr
  split
  · split
    · exact h.dropInput_congr.takeResponse_congr
    · exact h.dropInput_congr
  · exact h.dropInput_congr.engineStep_congr

end SameControl

/-! ### Outcomes that agree -/

/-- Both go on to states with the same control, or both stop with the same fault. -/
def OutcomesAgree (o p : Host.Outcome State Fault Refusal) : Prop :=
  (∃ s t, o = .next s ∧ p = .next t ∧ s.control = t.control) ∨ ∃ f, o = .fault f ∧ p = .fault f

theorem outcomesAgree_next {s t : State} (h : SameControl s t) : OutcomesAgree (.next s) (.next t) :=
  .inl ⟨s, t, rfl, rfl, control_eq_iff.mpr h⟩

/-- The checks of R120 read VALID, CURSOR and MODE only. -/
theorem whenConfigured_agrees {s t : State} (h : SameControl s t) {run run' : State → State}
    (hrun : s.cursor.toNat < s.rate → SameControl (run s) (run' t)) :
    OutcomesAgree (whenConfigured s (whenCursorInWindow · run)) (whenConfigured t (whenCursorInWindow · run')) := by
  rcases whenConfigured_cases s run with ⟨hvalid, he⟩ | ⟨hvalid, hcursor, he⟩ | ⟨hvalid, hcursor, he⟩ <;> rw [he]
  · rw [whenConfigured_of_not_valid (h.valid_eq ▸ hvalid)]
    exact outcomesAgree_next (h.raiseError_congr _)
  · rw [whenConfigured_of_valid (h.valid_eq ▸ hvalid), whenCursorInWindow_of_lt (h.cursor_eq ▸ h.rate_eq ▸ hcursor)]
    exact outcomesAgree_next (hrun hcursor)
  · rw [whenConfigured_of_valid (h.valid_eq ▸ hvalid), whenCursorInWindow_of_le (h.cursor_eq ▸ h.rate_eq ▸ hcursor)]
    exact .inr ⟨_, rfl, rfl⟩

section
variable {s t : State} (h : SameControl s t)
include h

theorem execInit_agrees (size : Nat) : OutcomesAgree (execInit size s) (execInit size t) := by
  rw [execInit, execInit]
  cases Mode.ofSize size with
  | some m => exact outcomesAgree_next ((h.zeroSession_congr.configure_congr m).respond_congr _ _ _)
  | none => exact outcomesAgree_next (h.zeroSession_congr.unconfigure_congr.raiseError_congr _)

theorem execAbsorb_agrees (a b : Byte) : OutcomesAgree (execAbsorb a s) (execAbsorb b t) :=
  whenConfigured_agrees h fun _ => (h.noteAbsorb_congr (h.absorbByte_congr a b)).respond_congr _ _ _

theorem execFinish_agrees : OutcomesAgree (execFinish s) (execFinish t) :=
  whenConfigured_agrees h fun hcursor =>
    ((h.absorbPad_congr hcursor).zeroSession_congr.setAfter_congr .toSqueeze).respond_congr _ _ _

theorem execReset_agrees : OutcomesAgree (execReset s) (execReset t) := by
  rcases execReset_cases s with ⟨hvalid, he⟩ | ⟨hvalid, he⟩ <;> rw [he]
  · rw [execReset, whenConfigured_of_not_valid (h.valid_eq ▸ hvalid)]
    exact outcomesAgree_next (h.raiseError_congr _)
  · rw [execReset_of_valid (h.valid_eq ▸ hvalid)]
    exact outcomesAgree_next (h.zeroSession_congr.respond_congr _ _ _)

theorem exec_agrees (i : Instr) : OutcomesAgree (exec i s) (exec i t) := by
  cases i with
  | init size => exact execInit_agrees h size
  | absorb b => exact execAbsorb_agrees h b b
  | finish => exact execFinish_agrees h
  | reset => exact execReset_agrees h

theorem acceptInstr_absorb_agrees (a b : Byte) :
    OutcomesAgree (acceptInstr (.absorb a) s) (acceptInstr (.absorb b) t) :=
  whenConfigured_agrees h fun _ => h.acceptAbsorb_congr a b

theorem acceptInstr_agrees (i : Instr) : OutcomesAgree (acceptInstr i s) (acceptInstr i t) := by
  cases i with
  | init size => exact execInit_agrees h size
  | absorb b => exact acceptInstr_absorb_agrees h b b
  | finish => exact whenConfigured_agrees h fun _ => h.acceptFinish_congr
  | reset => exact execReset_agrees h

end

/-! ### Words that differ in a message byte only -/

theorem wordShape_of_absorb {w : CmdWord} {b : Byte} (h : decode w = .ok (.absorb b)) :
    wordShape w = encode (.absorb 0#8) := by rw [wordShape, h]

theorem wordShape_of_not_absorb {w : CmdWord} (h : ∀ b, decode w ≠ .ok (.absorb b)) : wordShape w = w := by
  rw [wordShape]
  split
  · exact absurd ‹_› (h _)
  · rfl

/-- A word's shape spells an ABSORB exactly when the word does. -/
theorem exists_absorb_of_wordShape_eq {w v : CmdWord} (h : wordShape w = wordShape v) {a : Byte}
    (hw : decode w = .ok (.absorb a)) : ∃ b, decode v = .ok (.absorb b) := by
  by_contra hv
  have hshape : encode (.absorb 0#8) = v := by
    rw [← wordShape_of_absorb hw, h, wordShape_of_not_absorb fun b hb => hv ⟨b, hb⟩]
  exact hv ⟨0#8, hshape ▸ decode_encode rfl⟩

theorem eq_or_absorbs_of_wordShape_eq {w v : CmdWord} (h : wordShape w = wordShape v) :
    w = v ∨ ∃ a b, decode w = .ok (.absorb a) ∧ decode v = .ok (.absorb b) := by
  by_cases hw : ∃ a, decode w = .ok (.absorb a)
  · obtain ⟨a, ha⟩ := hw
    obtain ⟨b, hb⟩ := exists_absorb_of_wordShape_eq h ha
    exact .inr ⟨a, b, ha, hb⟩
  · by_cases hv : ∃ b, decode v = .ok (.absorb b)
    · obtain ⟨b, hb⟩ := hv
      exact absurd (exists_absorb_of_wordShape_eq h.symm hb) hw
    · rw [wordShape_of_not_absorb fun a ha => hw ⟨a, ha⟩, wordShape_of_not_absorb fun b hb => hv ⟨b, hb⟩] at h
      exact .inl h

theorem runWord_agrees {s t : State} (h : SameControl s t) {w v : CmdWord} (hwv : wordShape w = wordShape v) :
    OutcomesAgree (runWord w s) (runWord v t) := by
  rcases eq_or_absorbs_of_wordShape_eq hwv with rfl | ⟨a, b, ha, hb⟩
  · rw [runWord, runWord]
    cases decode w with
    | ok i => exact exec_agrees h i
    | error e => exact outcomesAgree_next (h.raiseError_congr _)
  · rw [runWord_of_ok ha, runWord_of_ok hb]
    exact execAbsorb_agrees h a b

theorem acceptWord_agrees {s t : State} (h : SameControl s t) {w v : CmdWord} (hwv : wordShape w = wordShape v) :
    OutcomesAgree (acceptWord w s) (acceptWord v t) := by
  rcases eq_or_absorbs_of_wordShape_eq hwv with rfl | ⟨a, b, ha, hb⟩
  · rw [acceptWord, acceptWord]
    cases decode w with
    | ok i => exact acceptInstr_agrees h i
    | error e => exact outcomesAgree_next (h.raiseError_congr _)
  · rw [acceptWord, acceptWord, ha, hb]
    exact acceptInstr_absorb_agrees h a b

/-! ### The step -/

theorem acceptedWord_shape_eq {s t : State} (h : SameControl s t) :
    s.acceptedWord.map wordShape = t.acceptedWord.map wordShape := by
  simp only [State.acceptedWord, h.cmdReady_eq, h.rst_eq]
  split
  · exact h.cmdShape_eq
  · rfl

/-- A machine's control is independent of data if what it does with an accepted word is. -/
theorem portStep_agrees {accept : CmdWord → State → Host.Outcome State Fault Refusal}
    (haccept : ∀ {s t : State}, SameControl s t → ∀ {w v : CmdWord}, wordShape w = wordShape v →
      OutcomesAgree (accept w s) (accept v t))
    {s t : State} (h : SameControl s t) : OutcomesAgree (portStep accept s) (portStep accept t) := by
  have hwords := acceptedWord_shape_eq h
  cases hs : s.acceptedWord with
  | none =>
    have ht : t.acceptedWord = none := by simpa [hs] using hwords.symm
    rw [portStep_of_not_accepted hs, portStep_of_not_accepted ht]
    exact outcomesAgree_next h.ownStep_congr
  | some w =>
    obtain ⟨v, ht, hvw⟩ : ∃ v, t.acceptedWord = some v ∧ wordShape v = wordShape w := by simpa [hs] using hwords.symm
    rw [portStep_of_accepted hs, portStep_of_accepted ht]
    exact haccept h.dropInput_congr hvw.symm

end Sys2Proof.Machine

namespace Sys2Proof

open Machine

/-- Settles O56: both machines are the ports around an operation whose branches read control only. -/
theorem controlIsDataIndependent : Obligations.ControlIsDataIndependent := fun _ _ h =>
  ⟨portStep_agrees acceptWord_agrees (control_eq_iff.mp h), portStep_agrees runWord_agrees (control_eq_iff.mp h)⟩

end Sys2Proof
end

section
/-! The register CTL and the 200-byte space (10_state.md R26, 20_memory.md R40, R41): a lane and its eight bytes
determine each other, so what holds of every byte holds of the lanes. -/

namespace Sys2Proof.Machine

/-! ### A lane and its bytes -/

theorem getLsbD_laneByte (v : Lane) (k : Nat) {i : Nat} (hi : i < 8) :
    (laneByte v k).getLsbD i = v.getLsbD (8 * k + i) := by
  simp [laneByte, hi]

theorem toNat_laneByte (v : Lane) (k : Nat) : (laneByte v k).toNat = v.toNat / 2 ^ (8 * k) % 256 := by
  rw [laneByte, BitVec.extractLsb'_toNat, Nat.shiftRight_eq_div_pow]

theorem lane_ext_laneByte {v w : Lane} (h : ∀ k < 8, laneByte v k = laneByte w k) : v = w := by
  apply BitVec.eq_of_getLsbD_eq
  intro i hi
  have hbit := congrArg (BitVec.getLsbD · (i % 8)) (h (i / 8) (by omega))
  simpa only [getLsbD_laneByte _ _ (Nat.mod_lt i (by decide)), Nat.div_add_mod] using hbit

theorem lanes_ext_byteAt {S T : Lanes} (h : ∀ b < 200, byteAt S b = byteAt T b) : S = T := by
  refine lanes_ext fun i hi => lane_ext_laneByte fun k hk => ?_
  have hbyte := h (8 * i + k) (by omega)
  have hlane : (8 * i + k) / 8 = i := by omega
  have hpos : (8 * i + k) % 8 = k := by omega
  rwa [byteAt, byteAt, hlane, hpos] at hbyte

/-- The first `n` bytes, by their places, are the lane modulo 256^n. -/
theorem sum_laneBytes (v : Lane) (n : Nat) :
    ((List.range n).map fun k => (laneByte v k).toNat * 2 ^ (8 * k)).sum = v.toNat % 2 ^ (8 * n) := by
  induction n with
  | zero => simp [Nat.mod_one]
  | succ n ih =>
    rw [List.range_succ, List.map_append, List.sum_append, ih, List.map_singleton, List.sum_singleton, toNat_laneByte,
      Nat.mul_succ, Nat.pow_add, Nat.mod_mul, Nat.mul_comm (2 ^ (8 * n))]

/-! ### Writing a byte -/

/-- Replacing a byte of a lane is masking it out and placing the new one. -/
theorem laneByte_setLaneByte (v : Lane) {k j : Nat} (hk : k < 8) (hj : j < 8) (x : Byte) :
    laneByte (setLaneByte v k x) j = if j = k then x else laneByte v j := by
  have hmask := laneByte_placeByte 0xFF#8 hk hj
  have hplace := laneByte_placeByte x hk hj
  have hsplit : laneByte (setLaneByte v k x) j =
      laneByte v j &&& ~~~ laneByte (placeByte 0xFF#8 k) j ||| laneByte (placeByte x k) j := by
    apply BitVec.eq_of_getLsbD_eq
    intro i hi
    have h64 : 8 * j + i < 64 := by omega
    simp [setLaneByte, laneByte, hi, h64]
  rw [hsplit, hmask, hplace]
  split
  · have hones : ~~~ 0xFF#8 = 0#8 := by decide
    rw [hones, BitVec.and_zero, BitVec.zero_or]
  · have hzeros : ~~~ 0#8 = BitVec.allOnes 8 := by decide
    rw [hzeros, BitVec.and_allOnes, BitVec.or_zero]

theorem byteAt_setByteAt (S : Lanes) {b : Nat} (hb : b < 200) (x : Byte) (c : Nat) :
    byteAt (setByteAt S b x) c = if c = b then x else byteAt S c := by
  rw [byteAt, setByteAt, laneAt_setIfInBounds S (by omega)]
  by_cases hlane : c / 8 = b / 8
  · rw [if_pos hlane, laneByte_setLaneByte _ (Nat.mod_lt _ (by decide)) (Nat.mod_lt _ (by decide)), byteAt, hlane]
    have hsame : c % 8 = b % 8 ↔ c = b := by omega
    simp only [hsame]
  · have hne : c ≠ b := by
      rintro rfl
      exact hlane rfl
    rw [if_neg hlane, if_neg hne, byteAt]

theorem memXor_eq_setByteAt (S : Lanes) {b : Nat} (hb : b < 200) (v : Byte) :
    memXor S b v = setByteAt S b (byteAt S b ^^^ v) :=
  lanes_ext_byteAt fun c _ => by rw [byteAt_memXor S hb, byteAt_setByteAt S hb]

/-! ### Rotation (R10) -/

theorem rotl_zero (v : Lane) : rotl v 0 = v := by
  have hhigh : v >>> 64 = 0#64 := BitVec.ushiftRight_eq_zero le_rfl
  simp [rotl, BitVec.rotateLeft_def, hhigh]

theorem toNat_rotl (v : Lane) {n : Nat} (hpos : 1 ≤ n) (hn : n ≤ 63) :
    (rotl v n).toNat = v.toNat * 2 ^ n % 2 ^ 64 + v.toNat / 2 ^ (64 - n) := by
  have hlow : v.toNat / 2 ^ (64 - n) < 2 ^ n := by
    rw [Nat.div_lt_iff_lt_mul (by positivity), ← Nat.pow_add, Nat.add_sub_cancel' (by omega)]
    exact v.isLt
  have hhigh : v.toNat * 2 ^ n % 2 ^ 64 = v.toNat % 2 ^ (64 - n) * 2 ^ n := by
    rw [← Nat.mul_mod_mul_right, ← Nat.pow_add, Nat.sub_add_cancel (by omega)]
  rw [rotl, BitVec.toNat_rotateLeft, Nat.mod_eq_of_lt (by omega : n < 64), Nat.shiftLeft_eq, Nat.shiftRight_eq_div_pow,
    hhigh, Nat.mul_comm (_ % _), Nat.two_pow_add_eq_or_of_lt hlow]

theorem getLsbD_rotl (v : Lane) {n j : Nat} (hn : n ≤ 63) (hj : j < 64) :
    (rotl v n).getLsbD ((j + n) % 64) = v.getLsbD j := by
  rw [rotl, BitVec.getLsbD_rotateLeft_of_le (by omega)]
  by_cases hwraps : j + n < 64
  · have hmod : (j + n) % 64 = j + n := Nat.mod_eq_of_lt hwraps
    simp [hmod, hwraps]
  · have hmod : (j + n) % 64 = j + n - 64 := by omega
    have hlow : j + n - 64 < n := by omega
    have hback : 64 - n + (j + n - 64) = j := by omega
    simp [hmod, hlow, hback]

/-! ### Rho and pi in one move (R93) -/

theorem rhoTable_eq_rhoOffset (x y : Nat) : rhoTable.getD (x + 5 * y) 0 = rhoOffset x y := rfl

theorem laneAt_rhoPiMerged (S : Lanes) {j : Nat} (hj : j < 25) :
    laneAt (rhoPiMerged S) j = rotl (laneAt S (piSource.getD j 0)) (rhoTable.getD (piSource.getD j 0) 0) := by
  rw [laneAt_eq _ hj, rhoPiMerged, Vector.getElem_ofFn]

theorem rhoPiMerged_eq (S : Lanes) : rhoPiMerged S = pi (rho S) := by
  apply lanes_ext
  intro j hj
  have hsource := piSource_eq j hj
  rw [laneAt_rhoPiMerged S hj, laneAt_pi_eq_piSource _ hj, hsource, laneAt_rho S (Nat.mod_lt _ (by decide))
    (Nat.mod_lt _ (by decide)), rhoTable_eq_rhoOffset]

end Sys2Proof.Machine

namespace Sys2Proof

open Machine

/-- Settles O5: the fields of CTL are its three parts. -/
theorem ctlHoldsTheThreeFields : Obligations.CtlHoldsTheThreeFields := by
  intro s
  have hlow (start len : Nat) (h : start + len ≤ 10) :
      s.ctl.extractLsb' start len = (s.mode.code ++ s.cursor).extractLsb' start len :=
    BitVec.extractLsb'_append_eq_of_add_le h
  refine ⟨?_, ?_, ?_⟩
  · rw [hlow 0 8 (by decide), BitVec.extractLsb'_append_eq_right]
  · rw [hlow 8 2 (by decide), BitVec.extractLsb'_append_eq_left]
  · exact BitVec.extractLsb'_append_eq_left

/-- Settles O6: the table mode by mode. -/
theorem modeDecidesOutputAndRate : Obligations.ModeDecidesOutputAndRate :=
  ⟨by decide, fun m => by cases m <;> decide⟩

/-- Settles O7: the mask and the new byte touch one byte of one lane. -/
theorem byteWriteIsReadBack : Obligations.ByteWriteIsReadBack := by
  intro S b x hb
  constructor
  · rw [byteAt_setByteAt S hb, if_pos rfl]
  · intro c _ hne
    rw [byteAt_setByteAt S hb, if_neg hne]

/-- Settles O8: the eight bytes of a lane are the lane modulo 2^64. -/
theorem laneIsItsEightBytes : Obligations.LaneIsItsEightBytes := by
  intro S i _
  have hbytes : ∀ k ∈ List.range 8, byteAt S (8 * i + k) = laneByte (laneAt S i) k := by
    intro k hk
    have hlt := List.mem_range.mp hk
    have hlane : (8 * i + k) / 8 = i := by omega
    have hpos : (8 * i + k) % 8 = k := by omega
    rw [byteAt, hlane, hpos]
  rw [List.map_congr_left fun k hk => by rw [hbytes k hk], sum_laneBytes, Nat.mod_eq_of_lt (laneAt S i).isLt]

/-- Settles O9: both sides have the same 200 bytes. -/
theorem memXorIsReadXorWrite : Obligations.MemXorIsReadXorWrite := by
  intro S b v hb
  rw [memXor_eq_setByteAt S hb]
  rfl

/-- Settles O10: the cells give every byte, and the bytes give the lanes. -/
theorem cellsDetermineLanes : Obligations.CellsDetermineLanes := by
  intro S T h
  refine lanes_ext_byteAt fun b hb => ?_
  rw [← cellAt_memCells S hb, h, cellAt_memCells T hb]

/-- Settles O11: the low part moves up and the high part comes in below it. -/
theorem rotlMovesEveryBit : Obligations.RotlMovesEveryBit := fun v =>
  ⟨rotl_zero v, fun _ hpos hn => toNat_rotl v hpos hn, fun _ hn _ hj => getLsbD_rotl v hn hj⟩

/-- Settles O17: the merged move reads each lane from pi's source and rotates it by rho's offset there. -/
theorem mergedRoundIsRound : Obligations.MergedRoundIsRound := by
  intro S i
  rw [roundMerged, keccakRound, rhoPiMerged_eq]

end Sys2Proof
end

section
/-! Absorbing by whole blocks (41_sponge.md R100, R111, 42_commands.md R126): from CURSOR = 0, RATE bytes are one XOR
of the window and one permutation, so a padded message is its blocks one after another. -/

namespace Sys2Proof.Machine

/-- Bytes that end exactly at the boundary are XORed in from CURSOR on, and then the permutation runs. -/
theorem absorbBytes_to_boundary {s : State} {bytes : List Byte} (hne : bytes ≠ [])
    (hlength : s.cursor.toNat + bytes.length = s.rate) :
    absorbBytes s bytes = { s with lanes := permute (xorBytes s.lanes s.cursor.toNat bytes), cursor := 0#8 } := by
  induction bytes generalizing s with
  | nil => contradiction
  | cons b bytes ih =>
    rw [List.length_cons] at hlength
    by_cases hlast : bytes = []
    · subst hlast
      rw [absorbBytes_cons, absorbBytes_nil, absorbByte_of_fills b hlength]
      rfl
    · have hpos : 0 < bytes.length := List.length_pos_iff.mpr hlast
      have hcursor := toNat_cursor_succ (s := s) (by omega)
      have hstep := absorbByte_of_lt (s := s) b (by omega)
      have hrest : (absorbByte s b).cursor.toNat + bytes.length = (absorbByte s b).rate := by
        rw [absorbByte_rate, hstep, hcursor]
        omega
      rw [absorbBytes_cons, ih hlast hrest, hstep, hcursor]
      rfl

theorem absorbBytes_window {s : State} {bytes : List Byte} (hcursor : s.cursor = 0#8)
    (hlength : bytes.length = s.rate) : absorbBytes s bytes = { s with lanes := absorbWindow s.lanes bytes } := by
  have hne : bytes ≠ [] := by
    rintro rfl
    exact (Nat.zero_lt_of_lt s.mode.ob_lt_rate).ne hlength
  rw [absorbBytes_to_boundary hne (by rw [hcursor, BitVec.toNat_zero, zero_add, hlength]), absorbWindow, ← hcursor]
  simp only [hcursor, BitVec.toNat_zero]

/-- Whole blocks, one after another (R111). -/
theorem absorbBytes_blocks {s : State} (n : Nat) {bytes : List Byte} (hcursor : s.cursor = 0#8)
    (hlength : bytes.length = n * s.rate) :
    absorbBytes s bytes = { s with lanes := (blocks s.rate n bytes).foldl absorbWindow s.lanes } := by
  induction n generalizing s bytes with
  | zero =>
    rw [Nat.zero_mul, List.length_eq_zero_iff] at hlength
    subst hlength
    rfl
  | succ n ih =>
    rw [Nat.succ_mul] at hlength
    have hblock := absorbBytes_window hcursor (bytes := bytes.take s.rate) (by rw [List.length_take]; omega)
    have hrest := ih (s := { s with lanes := absorbWindow s.lanes (bytes.take s.rate) }) (bytes := bytes.drop s.rate)
      hcursor (by rw [List.length_drop, hlength, Nat.add_sub_cancel]; rfl)
    conv_lhs => rw [← List.take_append_drop s.rate bytes, absorbBytes_append, hblock, hrest]
    rfl

/-! ### The padded message (R111) -/

theorem length_paddedMessage (m : Mode) (msg : List Byte) :
    (paddedMessage m msg).length = (msg.length / m.rate + 1) * m.rate := by
  have hpos : 0 < m.rate := Nat.zero_lt_of_lt m.ob_lt_rate
  have hmod := Nat.mod_lt msg.length hpos
  have hdiv := Nat.mod_add_div' msg.length m.rate
  rw [paddedMessage, List.length_append, length_padBlock, Nat.succ_mul]
  omega

/-- The pad that FINISH absorbs is the one the message is padded with: CURSOR is the message's length modulo RATE. -/
theorem absorbPad_absorbBytes (m : Mode) (msg : List Byte) :
    absorbPad (absorbBytes (freshSession m) msg) = absorbBytes (freshSession m) (paddedMessage m msg) := by
  have hstart : (freshSession m).cursor.toNat < (freshSession m).rate := Nat.zero_lt_of_lt m.ob_lt_rate
  obtain ⟨-, hcursor⟩ := permCount_eq_div_and_cursor_eq_mod msg hstart
  rw [freshSession_cursor, BitVec.toNat_zero, zero_add, freshSession_rate] at hcursor
  rw [paddedMessage, absorbBytes_append, absorbPad, hcursor, absorbBytes_rate, freshSession_rate]

theorem hashOf_eq_hashByBlocks (m : Mode) (msg : List Byte) : hashOf m msg = hashByBlocks m msg := by
  have hlength := length_paddedMessage m msg
  have hcount : (paddedMessage m msg).length / m.rate = msg.length / m.rate + 1 := by
    rw [hlength, Nat.mul_div_cancel _ (Nat.zero_lt_of_lt m.ob_lt_rate)]
  have hblocks := absorbBytes_blocks (s := freshSession m) _ rfl hlength
  rw [hashOf, absorbPad_absorbBytes, hblocks, hashByBlocks, hcount]
  rfl

end Sys2Proof.Machine

namespace Sys2Proof

open Machine

/-- Settles O23: the last of RATE bytes fills the window, and no byte before it does. -/
theorem fullWindowIsXorAndPermute : Obligations.FullWindowIsXorAndPermute := by
  intro s bytes hcursor hlength
  have hpos := Nat.zero_lt_of_lt s.mode.ob_lt_rate
  refine ⟨absorbBytes_window hcursor hlength, ?_⟩
  rw [(permCount_eq_div_and_cursor_eq_mod bytes (cursor_lt_rate_of_eq_zero hcursor)).1, hcursor, hlength,
    BitVec.toNat_zero, zero_add]
  exact Nat.div_self hpos

/-- Settles O24: both forms absorb the padded message, whose length is a whole number of blocks. -/
theorem hashByBytesIsHashByBlocks : Obligations.HashByBytesIsHashByBlocks := by
  intro m msg
  have hpos := Nat.zero_lt_of_lt m.ob_lt_rate
  refine ⟨hashOf_eq_hashByBlocks m msg, ?_, ?_, ?_⟩
  · rw [hashOf, length_squeeze, absorbPad_mode, absorbBytes_mode, freshSession_mode]
  · rw [length_paddedMessage, Nat.mul_mod_left]
  · rw [length_paddedMessage]
    exact Nat.mul_pos (Nat.succ_pos _) hpos

end Sys2Proof
end

section
/-! What single commands do to bytes and responses (41_sponge.md R101, R109, 30_encoding.md R69, 60_exceptions.md
R161, R167): ABSORB and the pad touch the window only, and a digest stands on the response port as it stands in the
lanes. -/

namespace Sys2Proof.Machine

/-! ### ABSORB (R122) -/

theorem execAbsorb_away {s : State} (b : Byte) (hvalid : s.valid = true) (h : s.cursor.toNat + 1 < s.rate) :
    execAbsorb b s = .next { s with
      lanes := memXor s.lanes s.cursor.toNat b, cursor := s.cursor + 1#8, rsp := some ⟨.ok, 0#7, 0#512⟩ } := by
  rw [execAbsorb_of_lt b hvalid (by omega), noteAbsorb_of_lt _ h, absorbByte_of_lt b h]
  rfl

theorem execAbsorb_fills {s : State} (b : Byte) (hvalid : s.valid = true) (h : s.cursor.toNat + 1 = s.rate) :
    execAbsorb b s = .next { s with
      lanes := permute (memXor s.lanes s.cursor.toNat b), cursor := 0#8, after := .toIdle
      rsp := some ⟨.ok, 0#7, 0#512⟩ } := by
  rw [execAbsorb_of_lt b hvalid (by omega), noteAbsorb_of_fills _ h, absorbByte_of_fills b h]
  rfl

/-! ### The capacity (R46) -/

theorem byteAt_memXor_of_ne (S : Lanes) {a b : Nat} (hb : b < 200) (hne : a ≠ b) (v : Byte) :
    byteAt (memXor S b v) a = byteAt S a := by
  rw [byteAt_memXor S hb, if_neg hne]

theorem lanes_acceptAbsorb (b : Byte) (s : State) : (acceptAbsorb b s).lanes = memXor s.lanes s.cursor.toNat b := by
  rw [acceptAbsorb]
  split <;> rfl

theorem acceptAbsorb_leaves_capacity {b : Byte} {s : State} (hcursor : s.cursor.toNat < s.rate) {a : Nat}
    (ha : s.rate ≤ a) : byteAt (acceptAbsorb b s).lanes a = byteAt s.lanes a := by
  have hrate := s.rate_le
  rw [lanes_acceptAbsorb, byteAt_memXor_of_ne _ (by omega) (by omega)]

theorem acceptFinish_leaves_capacity {s : State} (hcursor : s.cursor.toNat < s.rate) {a : Nat} (ha : s.rate ≤ a) :
    byteAt (acceptFinish s).lanes a = byteAt s.lanes a := by
  have hrate := s.rate_le
  rw [acceptFinish_lanes, byteAt_memXor_of_ne _ (by omega) (by omega), byteAt_memXor_of_ne _ (by omega) (by omega)]

/-- A step that needs CURSOR in the window leaves the capacity if what it then runs does. -/
theorem whenConfigured_leaves_capacity {run : State → State} {s t : State} {a : Nat}
    (hrun : s.cursor.toNat < s.rate → byteAt (run s).lanes a = byteAt s.lanes a)
    (h : whenConfigured s (whenCursorInWindow · run) = .next t) : byteAt t.lanes a = byteAt s.lanes a := by
  rcases whenConfigured_cases s run with ⟨-, he⟩ | ⟨-, hcursor, he⟩ | ⟨-, -, he⟩ <;> cases he.symm.trans h
  · rfl
  · exact hrun hcursor

/-! ### A digest on the response port (R69, R109) -/

/-- Lane `i` of the lanes a row of bytes was read from stands whole in the packed bytes. -/
theorem extract_lane_packBytes (S : Lanes) {n i : Nat} (hn : n ≤ 64) (hi : 8 * i + 8 ≤ n) :
    (packBytes (memRead S 0 n)).extractLsb' (64 * i) 64 = laneAt S i := by
  apply BitVec.eq_of_getLsbD_eq
  intro j hj
  have hlength : (64 * i + j) / 8 < (memRead S 0 n).length := by
    rw [length_memRead]
    omega
  have hlane : (64 * i + j) / 8 / 8 = i := by omega
  have hbit : 8 * ((64 * i + j) / 8 % 8) + (64 * i + j) % 8 = j := by omega
  have h512 : 64 * i + j < 512 := by omega
  rw [BitVec.getLsbD_extractLsb', getLsbD_packBytes, List.getD_eq_getElem _ _ hlength, getElem_memRead, zero_add,
    byteAt, hlane, getLsbD_laneByte _ _ (Nat.mod_lt _ (by decide)), hbit]
  simp [hj, h512]

theorem extract_byte_packBytes (S : Lanes) {n i : Nat} (hn : n ≤ 64) (hi : i < n) :
    ((packBytes (memRead S 0 n)).extractLsb' (8 * i) 8).toNat = (laneAt S (i / 8)).toNat / 2 ^ (8 * (i % 8)) % 256 := by
  have hlength : i < (memRead S 0 n).length := by rwa [length_memRead]
  rw [extract_packBytes _ (by omega), List.getD_eq_getElem _ _ hlength, getElem_memRead, zero_add, byteAt,
    toNat_laneByte]

/-! ### Responses read back and forgotten (R69, R167) -/

theorem payload_ofPair (st : Status) {bytes : List Byte} (h : bytes.length ≤ 64) :
    (Response.ofPair st bytes).payload = bytes := by
  rw [Response.payload, ofPair_len st bytes h]
  refine List.ext_getElem (by simp) fun i hi hi' => ?_
  rw [List.getElem_map, List.getElem_range, ofPair_data, extract_packBytes _ (by omega), List.getD_eq_getElem _ _ hi']


theorem absorbByte_withRsp (s : State) (b : Byte) (r : Option Response) :
    absorbByte { s with rsp := r } b = { absorbByte s b with rsp := r } := by
  by_cases hfills : (s.cursor + 1#8).toNat = s.mode.rate <;>
    simp only [absorbByte, State.rate, hfills, if_true, if_false]

theorem absorbBytes_withRsp (s : State) (bytes : List Byte) (r : Option Response) :
    absorbBytes { s with rsp := r } bytes = { absorbBytes s bytes with rsp := r } := by
  induction bytes generalizing s with
  | nil => rfl
  | cons b bytes ih => rw [absorbBytes_cons, absorbByte_withRsp, ih, absorbBytes_cons]

theorem absorbPad_withRsp (s : State) (r : Option Response) :
    absorbPad { s with rsp := r } = { absorbPad s with rsp := r } := absorbBytes_withRsp s _ r

theorem noteAbsorb_withRsp (s t : State) (r : Option Response) :
    State.noteAbsorb { s with rsp := r } { t with rsp := r } = { s.noteAbsorb t with rsp := r } := by
  by_cases hfills : s.cursor.toNat + 1 = s.mode.rate <;> simp [State.noteAbsorb, State.fillsWindow, State.rate, hfills]

theorem whenConfigured_withRsp {run : State → State} {s : State} {r : Option Response}
    (hrun : run { s with rsp := r } = run s) :
    whenConfigured { s with rsp := r } (whenCursorInWindow · run) = whenConfigured s (whenCursorInWindow · run) := by
  simp only [whenConfigured, whenCursorInWindow, hrun]
  rfl

/-- Every outcome writes the response, so none shows the one before it. -/
theorem exec_withRsp (i : Instr) (s : State) (r : Option Response) : exec i { s with rsp := r } = exec i s := by
  cases i with
  | init size =>
    rw [exec_init, exec_init, execInit, execInit]
    cases Mode.ofSize size <;> rfl
  | absorb b =>
    refine whenConfigured_withRsp ?_
    rw [absorbByte_withRsp, noteAbsorb_withRsp]
    rfl
  | finish =>
    refine whenConfigured_withRsp ?_
    rw [absorbPad_withRsp]
    rfl
  | reset => rfl

end Sys2Proof.Machine

namespace Sys2Proof

open Machine

/-- Settles O26: the two cases of AbsorbByte, each with its response. -/
theorem absorbTakesOneByte : Obligations.AbsorbTakesOneByte := by
  intro b s hvalid
  refine ⟨fun h => ?_, execAbsorb_fills b hvalid⟩
  have hcursor : BitVec.ofNat 8 (s.cursor.toNat + 1) = s.cursor + 1#8 := by
    rw [BitVec.ofNat_add, BitVec.ofNat_toNat, BitVec.setWidth_eq]
  rw [exec_absorb, execAbsorb_away b hvalid h, hcursor]

/-- Settles O27: the byte form of the XOR. -/
theorem absorbFrame : Obligations.AbsorbFrame := by
  intro b s t hvalid h hexec
  have hrate := s.rate_le
  cases (execAbsorb_away b hvalid h).symm.trans hexec
  refine ⟨fun a _ => ?_, toNat_cursor_succ (by omega), rfl, rfl, rfl, rfl, rfl, rfl⟩
  rw [byteAt_memXor _ (by omega)]
  split
  · subst_vars
    rfl
  · rfl

/-- Settles O28: both XOR at offsets below RATE only. -/
theorem acceptLeavesCapacity : Obligations.AcceptLeavesCapacity := by
  rintro i s t (⟨b, rfl⟩ | rfl) haccept a ha -
  · exact whenConfigured_leaves_capacity (fun hcursor => acceptAbsorb_leaves_capacity hcursor ha) haccept
  · exact whenConfigured_leaves_capacity (fun hcursor => acceptFinish_leaves_capacity hcursor ha) haccept

/-- Settles O30: the digest is the packed bytes of the padded and permuted lanes. -/
theorem digestPlacement : Obligations.DigestPlacement := by
  intro s t hvalid hfinish
  cases completes_of_exec hfinish with
  | notConfigured hi hunconfigured => simp [hunconfigured] at hvalid
  | finished _ hcursor =>
    have hob := s.mode.ob_le
    have hsqueeze : squeeze (absorbPad s) = memRead (absorbPad s).lanes 0 s.mode.ob := by
      rw [squeeze, absorbPad_mode]
    have hhigh := packBytes_high (squeeze (absorbPad s))
    rw [length_squeeze, absorbPad_mode] at hhigh
    refine ⟨_, _, rfl, rfl, rfl, ?_, fun i hi => ?_, fun i hi => ?_, hhigh⟩
    · rw [digest_len, absorbPad_mode]
    · rw [ofPair_data, hsqueeze, extract_lane_packBytes _ hob hi]
    · rw [ofPair_data, hsqueeze, extract_byte_packBytes _ hob hi]

/-- Settles O33: no session is left, and every command but INIT asks for one. -/
theorem rejectedInitLeavesNoSession : Obligations.RejectedInitLeavesNoSession := fun _ s hsize =>
  ⟨_, execInit_of_not_mem hsize s, rfl, rfl, fun _ hi => exec_of_not_valid hi rfl, rfl, rfl⟩

/-- Settles O37: both leave zero lanes, CURSOR 0 and VALID 1 with the same MODE. -/
theorem finishLeavesAFreshSession : Obligations.FinishLeavesAFreshSession := by
  intro s t u v hvalid hfinish hinit
  cases (execInit_size s.mode u).symm.trans hinit
  cases completes_of_exec hfinish with
  | notConfigured hi hunconfigured => simp [hunconfigured] at hvalid
  | finished _ hcursor => simp [arch_eq_iff, hvalid]

/-- Settles O39: the response is written, never read. -/
theorem responsesAreNotSticky : Obligations.ResponsesAreNotSticky := by
  intro w s r
  cases hw : decode w with
  | ok i => rw [runWord_of_ok hw, runWord_of_ok hw, exec_withRsp]
  | error e =>
    rw [runWord_of_error hw, runWord_of_error hw]
    rfl

/-- Settles O40: each byte stands at its own place in `rsp_data`. -/
theorem responseCarriesItsPayload : Obligations.ResponseCarriesItsPayload := fun st _ h => ⟨payload_ofPair st h, rfl⟩

end Sys2Proof
end

section
/-! UPDATE as the assembler expands it (42_commands.md R125): one ABSORB word a byte, whatever MODE precedes it. -/

namespace Sys2Proof.Machine

/-- The opcode stands above the byte (R65), so the word is their sum. -/
theorem encode_absorb (b : Byte) : encode (.absorb b) = 0x2000#16 + b.setWidth 16 := by
  have hop : 0x2000#16 = 0x20#8 ++ 0x00#8 := by decide
  have hword : encode (.absorb b) = 0x20#8 ++ b := (BitVec.append_assoc (x₁ := 0x2#4) (x₂ := 0x0#4)).symm
  rw [hword, hop, BitVec.setWidth_eq_append (by decide)]
  exact BitVec.append_zero_add_zero_append.symm

theorem absorbWords_append (a b : List Byte) : absorbWords (a ++ b) = absorbWords a ++ absorbWords b := List.map_append

end Sys2Proof.Machine

namespace Sys2Proof

open Machine

/-- Settles O41: the words of two UPDATEs in a row are those of one. -/
theorem updateSplitsFreely : Obligations.UpdateSplitsFreely := by
  intro mode a b
  refine ⟨rfl, ?_, ?_⟩
  · simp only [assemble, assembleLine, List.append_nil, absorbWords, encode_absorb]
  · simp only [assemble, assembleLine, List.append_nil, absorbWords_append]

end Sys2Proof
end
